-- ==== Sys2Proof/Syntax.lean ====
section
/-! DEFINITION. Syntax: the instructions of spec/opcode_table.json, one constructor a row: six commands (R81) and
sixteen 4-bit codes (R97). -/

namespace Sys2Proof

/-- An instruction. The operand fields of a command word are unsigned counts, taken with no extension, scaling or
shifting (R86); the payload of DEC_DATA and ENC_DATA is not part of the word, it waits on the command port (R87). -/
inductive Instr where
  /-- DEC_INIT `ch` (R150): `ch = w[15:8]`. -/
  | decInit (ch : Nat)
  /-- DEC_DATA `len` (R151): `len = w[31:8]` payload bytes follow. -/
  | decData (len : Nat)
  /-- ENC_INIT `ch la` (R180): `ch = w[15:8]`, `la = w[23:16]`. -/
  | encInit (ch la : Nat)
  /-- ENC_DATA `narr` (R181): `narr = w[15:8]` length items, then samples. -/
  | encData (narr : Nat)
  /-- ENC_FINISH (R194). -/
  | encFinish
  /-- ENC_RESET (R195). -/
  | encReset
  /-- CODE_0 (R116). -/
  | code0
  /-- CODE_1 (R117). -/
  | code1
  /-- CODE_2 (R118). -/
  | code2
  /-- CODE_3 (R119). -/
  | code3
  /-- CODE_4 (R120). -/
  | code4
  /-- CODE_5 (R121). -/
  | code5
  /-- CODE_6 (R122). -/
  | code6
  /-- CODE_7 (R123). -/
  | code7
  /-- CODE_8 (R124). -/
  | code8
  /-- CODE_9 (R125). -/
  | code9
  /-- CODE_A (R126). -/
  | codeA
  /-- CODE_B (R127). -/
  | codeB
  /-- CODE_C (R128). -/
  | codeC
  /-- CODE_D (R129). -/
  | codeD
  /-- CODE_E (R130). -/
  | codeE
  /-- CODE_F (R131). -/
  | codeF
deriving DecidableEq, Repr

end Sys2Proof
end

