-- ==== Sys2Proof/WellFormed.lean ====
section
/-! DEFINITION. WellFormed: the operands an encoding can hold (R82 to R85). -/

namespace Sys2Proof

/-- The operands fit the fields of the command word: `CH`, `LA` and `NARR` are 8 bits (R82, R83, R85), `LEN` is 24
(R84). A channel count of 0 or 9 to 255 is well-formed: it is encodable and faults when run (R82). -/
def Instr.WellFormed : Instr → Bool
  | .decInit ch => decide (ch < 256)
  | .decData len => decide (len < 16777216)
  | .encInit ch la => decide (ch < 256) && decide (la < 256)
  | .encData narr => decide (narr < 256)
  | .encFinish => true
  | .encReset => true
  | .code0 => true
  | .code1 => true
  | .code2 => true
  | .code3 => true
  | .code4 => true
  | .code5 => true
  | .code6 => true
  | .code7 => true
  | .code8 => true
  | .code9 => true
  | .codeA => true
  | .codeB => true
  | .codeC => true
  | .codeD => true
  | .codeE => true
  | .codeF => true

end Sys2Proof
end

