-- ==== Sys2Proof/Word.lean ====
section
/-! DEFINITION. Word: the widths that cross a port of the XBADPCM codec core (R65, R80, R87, R96). -/

namespace Sys2Proof

/-- One byte of a compressed block: an item of DEC_DATA's payload, a byte of the encoder's output (R65). -/
abbrev Byte := BitVec 8

/-- One 16-bit PCM sample in two's complement (R8, R87); `BitVec.toInt` is the spec's `i16` value. -/
abbrev Sample := BitVec 16

/-- A command word, or a length item of ENC_DATA: 32 bits (R80, R87). -/
abbrev Item := BitVec 32

/-- A 4-bit code (R96): bit 3 the sign, bits 2 to 0 the magnitude selector. -/
abbrev Code := BitVec 4

end Sys2Proof
end

