-- ==== Sys2Proof/Decode.lean ====
section
/-! DEFINITION. Decode: from the bits of an instruction to the instruction or a named refusal (R80 to R88, R96, R97),
and the encoder written from the same tables. -/

namespace Sys2Proof

/-- The bits of one instruction: a 32-bit command word taken from the command port (R80), or a 4-bit code (R96). -/
inductive InstrWord where
  | cmd (w : Item)
  | code (c : Code)
deriving DecidableEq, Repr

/-- Why a command word is illegal (R88); both cases fault with cause 3 when the core takes the word. -/
inductive DecodeError where
  /-- `OP` is 0x0 or 0x7 to 0xF (R81). -/
  | reservedOpcode
  /-- `OP` is a command's, and a bit the table of R81 marks reserved or 0 is 1. -/
  | reservedBits
deriving DecidableEq, Repr

/-- One command row of the opcode table: a word is this row's when `(w AND mask) = pattern` (R88). -/
structure CmdRow where
  mask : Item
  pattern : Item
  build : Item → Instr

/-- `w[15:8]` as a number: `CH` and `NARR` (R82, R85, R86). -/
def fieldCh (w : Item) : Nat := (w.extractLsb' 8 8).toNat

/-- `w[23:16]` as a number: `LA` (R83, R86). -/
def fieldLa (w : Item) : Nat := (w.extractLsb' 16 8).toNat

/-- `w[31:8]` as a number: `LEN` (R84, R86). -/
def fieldLen (w : Item) : Nat := (w.extractLsb' 8 24).toNat

/-- The six command rows of spec/opcode_table.json (R81). -/
def cmdRows : List CmdRow :=
  [ ⟨0xFFFF00FF#32, 0x00000001#32, fun w => .decInit (fieldCh w)⟩,
    ⟨0x000000FF#32, 0x00000002#32, fun w => .decData (fieldLen w)⟩,
    ⟨0xFF0000FF#32, 0x00000003#32, fun w => .encInit (fieldCh w) (fieldLa w)⟩,
    ⟨0xFFFF00FF#32, 0x00000004#32, fun w => .encData (fieldCh w)⟩,
    ⟨0xFFFFFFFF#32, 0x00000005#32, fun _ => .encFinish⟩,
    ⟨0xFFFFFFFF#32, 0x00000006#32, fun _ => .encReset⟩ ]

/-- A word is of the row when its masked bits are the row's (R88). -/
def CmdRow.matches (r : CmdRow) (w : Item) : Bool := w &&& r.mask == r.pattern

/-- `OP = w[3:0]` (R80, R86). -/
def fieldOp (w : Item) : Nat := (w.extractLsb' 0 4).toNat

/-- Reads a command word by the rows (R88). -/
def decodeCmd (w : Item) : Except DecodeError Instr :=
  match cmdRows.find? (fun r => r.matches w) with
  | some r => .ok (r.build w)
  | none => .error (if fieldOp w = 0 ∨ 7 ≤ fieldOp w then .reservedOpcode else .reservedBits)

/-- The sixteen code rows in code order (R97). -/
def codeRows : List Instr :=
  [.code0, .code1, .code2, .code3, .code4, .code5, .code6, .code7,
   .code8, .code9, .codeA, .codeB, .codeC, .codeD, .codeE, .codeF]

/-- Reads a code: "Code nibbles: all 16 values are legal" (R95). -/
def decodeCode (c : Code) : Instr := codeRows.getD c.toNat .codeF

/-- The decoder, total on both formats. -/
def decode : InstrWord → Except DecodeError Instr
  | .cmd w => decodeCmd w
  | .code c => .ok (decodeCode c)

/-- The encoder: the words of a well-formed instruction (R81, R97). -/
def encode : Instr → InstrWord
  | .decInit ch => .cmd (0#16 ++ BitVec.ofNat 8 ch ++ 0x01#8)
  | .decData len => .cmd (BitVec.ofNat 24 len ++ 0x02#8)
  | .encInit ch la => .cmd (0#8 ++ BitVec.ofNat 8 la ++ BitVec.ofNat 8 ch ++ 0x03#8)
  | .encData narr => .cmd (0#16 ++ BitVec.ofNat 8 narr ++ 0x04#8)
  | .encFinish => .cmd 0x00000005#32
  | .encReset => .cmd 0x00000006#32
  | .code0 => .code 0x0#4
  | .code1 => .code 0x1#4
  | .code2 => .code 0x2#4
  | .code3 => .code 0x3#4
  | .code4 => .code 0x4#4
  | .code5 => .code 0x5#4
  | .code6 => .code 0x6#4
  | .code7 => .code 0x7#4
  | .code8 => .code 0x8#4
  | .code9 => .code 0x9#4
  | .codeA => .code 0xA#4
  | .codeB => .code 0xB#4
  | .codeC => .code 0xC#4
  | .codeD => .code 0xD#4
  | .codeE => .code 0xE#4
  | .codeF => .code 0xF#4

/-- The 32-bit word of an instruction: what `G.fault_cmd` records of a faulting command (R20, R262). A code raises no
fault, so its bits are never recorded. -/
def cmdWord (i : Instr) : Item :=
  match encode i with
  | .cmd w => w
  | .code c => c.setWidth 32

/-- The instruction the decoder reads from `w` when the opcode table gives its row `nbits` bits. A command word is one
32-bit item of the command port, so no byte order arises (R64); a code is one nibble (R96), which the table's 4 bits
in whole bytes make the low half of one byte, with the high half 0. -/
def decodeTableWord (nbits w : Nat) : Option Instr :=
  if nbits ≤ 8 then
    if w < 16 then (decode (.code (BitVec.ofNat 4 w))).toOption else none
  else if w < 4294967296 then (decode (.cmd (BitVec.ofNat 32 w))).toOption
  else none

end Sys2Proof
end

