-- ==== Sys2Proof/Config.lean ====
section
/-! DEFINITION. Config: the geometry constants the source fixes (R6) and the free values (R272): what a sink answers. -/

namespace Sys2Proof

/-- The parameter behind `SinkError` (R7: "OPEN: an opaque type the model takes as an argument"): which natural numbers
name an error value. No body: no proof can see how many error values there are, or which (log 4). -/
opaque Config.isSinkError : Nat → Bool

/-- The error a sink returns (R7 `SinkError`, decision D33): an opaque type. The core never looks into it; all a proof
has is that an error exists (the one named 0) and that two errors can be compared, which plain data needs (log 4). -/
structure SinkError where
  name : Nat
  isError : name = 0 ∨ Config.isSinkError name = true
deriving DecidableEq, Repr

/-- A sink's answer to one request (R41, R42, R272). -/
inductive Answer where
  | ok
  | err (e : SinkError)
deriving DecidableEq, Repr, Inhabited

namespace Config

/-- R6 `SAMPLES_PER_CHUNK`. -/
@[simp] abbrev samplesPerChunk : Nat := 8

/-- R6 `CHUNKS_PER_BLOCK`. -/
@[simp] abbrev chunksPerBlock : Nat := 8

/-- R6 `SAMPLES_PER_BLOCK`. -/
@[simp] abbrev samplesPerBlock : Nat := 64

/-- R6 `BLOCK_BYTES_PER_CHANNEL`. -/
@[simp] abbrev blockBytesPerChannel : Nat := 36

/-- R6 `MAX_CHANNELS`. -/
@[simp] abbrev maxChannels : Nat := 8

/-- R6 `MAX_STEP_INDEX`. -/
@[simp] abbrev maxStepIndex : Nat := 88

/-- R6 `WINDOW_LEN`. -/
@[simp] abbrev windowLen : Nat := 66

/-- FREE VALUE (log 4): what the decoder sink answers to a request for which the state schedules no answer; the
argument counts such requests. R272: "Which answer it gives is free: a model takes it as a draw". No body: no proof
can see an answer. -/
opaque decAnswer : Nat → Answer

/-- FREE VALUE (log 4): the same for the encoder sink (the two ports are separate, R42). -/
opaque encAnswer : Nat → Answer

end Config
end Sys2Proof
end

