-- ==== Sys2Proof/Machine/State.lean ====
section
/-! DEFINITION. Machine/State: every piece of state the spec gives the core (10_state.md), its ports, and the three
outcomes' reason types. Plain data. -/

namespace Sys2Proof.Machine

/-- Why a step stops for good. No instruction's meaning ends here on every path. -/
inductive Fault where
  /-- Raised by a step of a halted core to which no further host move comes, and by every command meaning run on a
  halted core. R263: "For a model the halted state is a fault state"; I18: `stuck` until reset. Safe: it stops where
  the hardware only waits. -/
  | halted
  /-- Raised by DEC_DATA and ENC_DATA when the command port does not hold the payload items the command calls for.
  R295: "with fewer items it waits for the next item and the command never ends, so the run is stuck"; I19: `stuck`.
  Safe: it stops where the hardware waits. -/
  | payloadMissing
deriving DecidableEq, Repr

/-- Why an instruction has no meaning. -/
inductive Refusal where
  /-- An instruction of the opcode table the model has no meaning for yet. Raised by no arm of `exec`. Safe: it stops. -/
  | notModelled (mnemonic : String)
deriving DecidableEq, Repr

/-- The fault causes (R261). -/
inductive Cause where
  /-- 1: DEC_INIT or ENC_INIT with `CH` 0 or 9 to 255. -/
  | badChannelCount
  /-- 2: ENC_DATA with `NARR` not `E.C`, or two length items that differ. -/
  | arrayMismatch
  /-- 3: the word matches no row of the opcode table. -/
  | illegalCmd
  /-- 4: the engine has had no successful INIT since reset. -/
  | notConfigured
  /-- 5: the engine saw a sink error and has not been re-initialised. -/
  | poisoned
deriving DecidableEq, Repr

/-- Core-global state `G` (R20). `faultCause` is the 4-bit code of R261 that `STATUS` shows. -/
structure Global where
  halted : Bool
  faultCause : BitVec 4
  faultCmd : Item
deriving DecidableEq, Repr

/-- Decoder engine state `D` (R26 to R30). Only `acc[0 .. len - 1]` is live (R28). -/
structure Decoder where
  cfg : Bool
  C : BitVec 4
  acc : Vector Byte 288
  len : Nat
  poison : Bool
deriving DecidableEq, Repr

/-- A predictor pair (R31, R115): a predicted sample (`i32`, always in `i16` range after a rule writes it) and a step
index (`usize`, always in [0, 88]). Exact integers, as R8 allows (log 6). -/
structure Predictor where
  pred : Int
  idx : Nat
deriving DecidableEq, Repr

/-- One channel of the encoder: `E.pred[c]`, `E.idx[c]` (R31) and the window `E.win[c]` (R32). -/
structure Channel where
  pr : Predictor
  win : Vector Sample 66
deriving DecidableEq, Repr

/-- Encoder engine state `E` (R24, R31 to R35). Entries `win[0 .. fill - 1]` of each window are live (R32). -/
structure Encoder where
  cfg : Bool
  C : BitVec 4
  L : BitVec 8
  chan : Vector Channel 8
  fill : Nat
  pinit : Bool
  poison : Bool
deriving DecidableEq, Repr

/-- A request to a sink (R41, R42). The count is samples per channel for the decoder sink, bytes for the encoder sink. -/
inductive Request (α : Type) where
  | reserve (count : Nat)
  | write (payload : α)
deriving DecidableEq, Repr

/-- A sink port. `log` is the ordered list of requests made so far, which R300 observes. `answers` and `draws` are the
MODEL's own fields (log 4): the answers the sink agent gives next, and how many were drawn from the free value of
Config because none was listed. -/
structure SinkPort (α : Type) where
  log : List (Request α)
  answers : List Answer
  draws : Nat
deriving DecidableEq, Repr

/-- A write of the decoder sink: one list of samples a channel (R41, R156). -/
abbrev DecSink := SinkPort (List (List Sample))

/-- A write of the encoder sink: the bytes of one block (R42, R193). -/
abbrev EncSink := SinkPort (List Byte)

/-- What a command that does not fault ends with (R40). -/
inductive Result where
  | ok
  | sinkErr (e : SinkError)
deriving DecidableEq, Repr

/-- A move of the host still to come (R276, log 1). -/
inductive HostMove where
  /-- An item on the command port (R39): a command word or a length in all 32 bits, a sample in bits 15 to 0, a byte
  in bits 7 to 0 (R87, log 7). -/
  | item (bits : Item)
  /-- A code run on its own on the pair `run` (R115). The MODEL's own move: a CODE4 row is no command (log 2). -/
  | code (nibble : Code)
  /-- The host asserts hardware reset (R290). -/
  | reset
deriving DecidableEq, Repr

/-- The machine. `g`, `d` and `e` are the core (R20 to R35); `input`, `results`, `decSink` and `encSink` are its four
ports (R39 to R42); `run` is the MODEL's own pair on which a code run on its own acts (log 2). `STATUS` and
`FAULT_CMD` are computed from `g`, `d` and `e` (R37, R38). -/
structure State where
  g : Global
  d : Decoder
  e : Encoder
  input : List HostMove
  results : List Result
  decSink : DecSink
  encSink : EncSink
  run : Predictor
deriving DecidableEq, Repr

/-- A predictor pair at its reset value (R31). -/
def Predictor.zero : Predictor := ⟨0, 0⟩

/-- A channel at reset: predictor 0 (R43), window entries unspecified by the spec, 0 here (log 3). -/
def Channel.zero : Channel := ⟨Predictor.zero, Vector.replicate 66 0⟩

/-- `G` at reset (R43). -/
def Global.zero : Global := ⟨false, 0, 0⟩

/-- `D` at reset (R43); the buffer's bytes are unspecified by the spec, 0 here (log 3). -/
def Decoder.zero : Decoder := ⟨false, 0, Vector.replicate 288 0, 0, false⟩

/-- `E` at reset (R43). -/
def Encoder.zero : Encoder := ⟨false, 0, 0, Vector.replicate 8 Channel.zero, 0, false, false⟩

/-- A sink port on which nothing has been asked, with no answer listed (log 4). -/
def SinkPort.silent (α : Type) : SinkPort α := ⟨[], [], 0⟩

/-- The machine right after hardware reset (R43, R291): both engines unconfigured, no fault recorded, waiting for the
first command word. -/
def State.reset : State :=
  ⟨Global.zero, Decoder.zero, Encoder.zero, [], [], SinkPort.silent _, SinkPort.silent _, Predictor.zero⟩

end Sys2Proof.Machine
end

