-- ==== Sys2Proof/Machine/Ops.lean ====
section
/-! DEFINITION. Machine/Ops: the named operations on state: taking a fault (R262) and leaving it by hardware reset
(R290), giving a result (R40), asking a sink (R272), and reading and updating the encoder's channels (R31, R32). -/

namespace Sys2Proof.Machine

/-- The code of a cause in `G.fault_cause` (R261). -/
def Cause.code : Cause → BitVec 4
  | .badChannelCount => 1
  | .arrayMismatch => 2
  | .illegalCmd => 3
  | .notConfigured => 4
  | .poisoned => 5

/-- Fault entry, `raise Fault(cause)` during the command `w` (R262): three fields of `G`, one step, nothing else. There
is no handler, vector or saved program state (R270). -/
def raiseFault (cause : Cause) (w : Item) (s : State) : State :=
  { s with g := ⟨true, cause.code, w⟩ }

/-- Hardware reset (R290), the only way out of the halted state (R263): every field of R43, whatever state the core is
in. It does not reach the sinks (R292), gives no result and makes no request, and the host's coming moves are the
host's. -/
def hardwareReset (s : State) : State :=
  { State.reset with
    input := s.input, results := s.results, decSink := s.decSink, encSink := s.encSink }

/-- The command ends with one result on the result port (R40). -/
def complete (r : Result) (s : State) : State :=
  { s with results := s.results ++ [r] }

/-- One request on a sink port and its one answer (R272): the next answer listed, else a draw of the free value
(log 4). The request is logged whatever the answer. -/
def SinkPort.ask {α : Type} (free : Nat → Answer) (r : Request α) (k : SinkPort α) : SinkPort α × Answer :=
  match k.answers with
  | a :: rest => ({ k with log := k.log ++ [r], answers := rest }, a)
  | [] => ({ k with log := k.log ++ [r], draws := k.draws + 1 }, free k.draws)

/-- Answer `i` (counting from 0) a sink will give from now on: listed, else drawn (R272, log 4). -/
def SinkPort.answerAt {α : Type} (free : Nat → Answer) (k : SinkPort α) (i : Nat) : Answer :=
  (k.answers[i]?).getD (free (k.draws + (i - k.answers.length)))

/-- A request on the decoder sink port (R41). -/
def DecSink.ask (r : Request (List (List Sample))) (k : DecSink) : DecSink × Answer :=
  SinkPort.ask Config.decAnswer r k

/-- A request on the encoder sink port (R42). -/
def EncSink.ask (r : Request (List Byte)) (k : EncSink) : EncSink × Answer :=
  SinkPort.ask Config.encAnswer r k

/-- Channel `c` of a bank of eight. -/
def channelOf (v : Vector Channel 8) (c : Nat) : Channel := (v[c]?).getD Channel.zero

/-- Channel `c` of the encoder (R31, R32). -/
def Encoder.channel (e : Encoder) (c : Nat) : Channel := channelOf e.chan c

/-- `for c in 0 .. n - 1: channel c <- f c (channel c)`, in ascending order (R181, R188, R194). -/
def updateChannels (f : Nat → Channel → Channel) : Nat → Vector Channel 8 → Vector Channel 8
  | 0, v => v
  | n + 1, v =>
    let v' := updateChannels f n v
    v'.setIfInBounds n (f n (channelOf v' n))

/-- `for c in 0 .. 7: channel c <- f (channel c)` (R180, R195). Irreducible for the elaborator, so that no proof unrolls
the eight channels by accident: unfold it by name. -/
@[irreducible] def updateAll (f : Channel → Channel) (v : Vector Channel 8) : Vector Channel 8 :=
  updateChannels (fun _ ch => f ch) Config.maxChannels v

/-- `E.win[c][i]` as its `i16` value (R32). -/
def Channel.entry (ch : Channel) (i : Nat) : Int := ((ch.win[i]?).getD 0).toInt

/-- `E.win[c][i] <- v` (R32). -/
def Channel.setEntry (i : Nat) (v : Sample) (ch : Channel) : Channel :=
  { ch with win := ch.win.setIfInBounds i v }

/-- `ceil(a / b)` for the reserve counts (R152, R182). -/
def ceilDiv (a b : Nat) : Nat := (a + (b - 1)) / b

/-- `BLOCK_BYTES(C) = 36 * C` (R6). -/
def blockBytes (c : Nat) : Nat := Config.blockBytesPerChannel * c

/-- `resetSession()` (R195): the seed 0 at entry 0 of all eight windows, one live entry, predictors uninitialised.
`E.pred` and `E.idx` keep their values. -/
def Encoder.resetSession (e : Encoder) : Encoder :=
  { e with
    chan := updateAll (fun ch => ch.setEntry 0 0) e.chan
    fill := 1
    pinit := false }

end Sys2Proof.Machine
end

