-- ==== Sys2Proof/Machine/Primitives.lean ====
section
/-! DEFINITION. Machine/Primitives: the shared constants and pure operations of 40_primitives.md (R110 to R115). -/

namespace Sys2Proof.Machine

/-- `STEP_TABLE` (R110), ten entries a line as the rule prints them. PRESUMED (log 8): the standard IMA values, which
the spec supplies from general knowledge (I1). -/
def stepTable : List Nat :=
  [7, 8, 9, 10, 11, 12, 13, 14, 16, 17] ++
  [19, 21, 23, 25, 28, 31, 34, 37, 41, 45] ++
  [50, 55, 60, 66, 73, 80, 88, 97, 107, 118] ++
  [130, 143, 157, 173, 190, 209, 230, 253, 279, 307] ++
  [337, 371, 408, 449, 494, 544, 598, 658, 724, 796] ++
  [876, 963, 1060, 1166, 1282, 1411, 1552, 1707, 1878, 2066] ++
  [2272, 2499, 2749, 3024, 3327, 3660, 4026, 4428, 4871, 5358] ++
  [5894, 6484, 7132, 7845, 8630, 9493, 10442, 11487, 12635, 13899] ++
  [15289, 16818, 18500, 20350, 22385, 24623, 27086, 29794, 32767]

/-- `INDEX_TABLE` (R111), one entry a code. PRESUMED (log 8): the standard IMA values (I2). -/
def indexTable : List Int :=
  [-1, -1, -1, -1, 2, 4, 6, 8] ++ [-1, -1, -1, -1, 2, 4, 6, 8]

/-- `STEP_TABLE[idx]`. "Invariant: never accessed outside this range" (R110, R134). -/
def stepSize (idx : Nat) : Nat := stepTable.getD idx 0

/-- `INDEX_TABLE[code]` (R111). -/
def indexAdjust (code : Code) : Int := indexTable.getD code.toNat 0

/-- `clampSample(x)` (R112). -/
def clampSample (x : Int) : Int := min (max x (-32768)) 32767

/-- `clampStepIndex(x)` (R113). -/
def clampStepIndex (x : Int) : Nat := (min (max x 0) 88).toNat

/-- The magnitude of `reconstructDelta` (R114): each shift truncates on its own before the additions. -/
def deltaMagnitude (step : Nat) (code : Code) : Nat :=
  step / 8 + (if code.getLsbD 0 then step / 4 else 0) + (if code.getLsbD 1 then step / 2 else 0) +
    (if code.getLsbD 2 then step else 0)

/-- `reconstructDelta(step, code)` (R114). -/
def reconstructDelta (step : Nat) (code : Code) : Int :=
  if code.getLsbD 3 then -(deltaMagnitude step code : Int) else (deltaMagnitude step code : Int)

/-- `advance(pred, idx, code)` (R115): the predictor update both engines use; the delta uses the step of the index
before the update. -/
def advance (p : Predictor) (code : Code) : Predictor :=
  ⟨clampSample (p.pred + reconstructDelta (stepSize p.idx) code),
   clampStepIndex ((p.idx : Int) + indexAdjust code)⟩

end Sys2Proof.Machine
end

