-- ==== Sys2Proof/Machine/Codes.lean ====
section
/-! DEFINITION. Machine/Codes: the sixteen codes run on their own (R116 to R131): each is `advance` (R115) of the pair
`run` under its code. A code writes no flag and raises no exception (40_primitives.md, section 4). -/

namespace Sys2Proof.Machine

/-- The pair `run` advances under one code (R115, log 2); nothing else changes. -/
def runCode (code : Code) (s : State) : State := { s with run := advance s.run code }

/-- CODE_0 (R116): `pred' <- clampSample(pred + (s >> 3))`, `idx' <- clampStepIndex(idx - 1)`. -/
def execCode0 (s : State) : Host.Outcome State Fault Refusal := .next (runCode 0x0#4 s)

/-- CODE_1 (R117): `pred' <- clampSample(pred + ((s >> 3) + (s >> 2)))`, `idx' <- clampStepIndex(idx - 1)`. -/
def execCode1 (s : State) : Host.Outcome State Fault Refusal := .next (runCode 0x1#4 s)

/-- CODE_2 (R118): `pred' <- clampSample(pred + ((s >> 3) + (s >> 1)))`, `idx' <- clampStepIndex(idx - 1)`. -/
def execCode2 (s : State) : Host.Outcome State Fault Refusal := .next (runCode 0x2#4 s)

/-- CODE_3 (R119): `pred' <- clampSample(pred + ((s >> 3) + (s >> 2) + (s >> 1)))`, `idx' <- clampStepIndex(idx - 1)`. -/
def execCode3 (s : State) : Host.Outcome State Fault Refusal := .next (runCode 0x3#4 s)

/-- CODE_4 (R120): `pred' <- clampSample(pred + ((s >> 3) + s))`, `idx' <- clampStepIndex(idx + 2)`. -/
def execCode4 (s : State) : Host.Outcome State Fault Refusal := .next (runCode 0x4#4 s)

/-- CODE_5 (R121): `pred' <- clampSample(pred + ((s >> 3) + (s >> 2) + s))`, `idx' <- clampStepIndex(idx + 4)`. -/
def execCode5 (s : State) : Host.Outcome State Fault Refusal := .next (runCode 0x5#4 s)

/-- CODE_6 (R122): `pred' <- clampSample(pred + ((s >> 3) + (s >> 1) + s))`, `idx' <- clampStepIndex(idx + 6)`. -/
def execCode6 (s : State) : Host.Outcome State Fault Refusal := .next (runCode 0x6#4 s)

/-- CODE_7 (R123): `pred' <- clampSample(pred + ((s >> 3) + (s >> 2) + (s >> 1) + s))`, `idx' <- clampStepIndex(idx + 8)`. -/
def execCode7 (s : State) : Host.Outcome State Fault Refusal := .next (runCode 0x7#4 s)

/-- CODE_8 (R124): `pred' <- clampSample(pred - (s >> 3))`, `idx' <- clampStepIndex(idx - 1)`. -/
def execCode8 (s : State) : Host.Outcome State Fault Refusal := .next (runCode 0x8#4 s)

/-- CODE_9 (R125): `pred' <- clampSample(pred - ((s >> 3) + (s >> 2)))`, `idx' <- clampStepIndex(idx - 1)`. -/
def execCode9 (s : State) : Host.Outcome State Fault Refusal := .next (runCode 0x9#4 s)

/-- CODE_A (R126): `pred' <- clampSample(pred - ((s >> 3) + (s >> 1)))`, `idx' <- clampStepIndex(idx - 1)`. -/
def execCodeA (s : State) : Host.Outcome State Fault Refusal := .next (runCode 0xA#4 s)

/-- CODE_B (R127): `pred' <- clampSample(pred - ((s >> 3) + (s >> 2) + (s >> 1)))`, `idx' <- clampStepIndex(idx - 1)`. -/
def execCodeB (s : State) : Host.Outcome State Fault Refusal := .next (runCode 0xB#4 s)

/-- CODE_C (R128): `pred' <- clampSample(pred - ((s >> 3) + s))`, `idx' <- clampStepIndex(idx + 2)`. -/
def execCodeC (s : State) : Host.Outcome State Fault Refusal := .next (runCode 0xC#4 s)

/-- CODE_D (R129): `pred' <- clampSample(pred - ((s >> 3) + (s >> 2) + s))`, `idx' <- clampStepIndex(idx + 4)`. -/
def execCodeD (s : State) : Host.Outcome State Fault Refusal := .next (runCode 0xD#4 s)

/-- CODE_E (R130): `pred' <- clampSample(pred - ((s >> 3) + (s >> 1) + s))`, `idx' <- clampStepIndex(idx + 6)`. -/
def execCodeE (s : State) : Host.Outcome State Fault Refusal := .next (runCode 0xE#4 s)

/-- CODE_F (R131): `pred' <- clampSample(pred - ((s >> 3) + (s >> 2) + (s >> 1) + s))`, `idx' <- clampStepIndex(idx + 8)`. -/
def execCodeF (s : State) : Host.Outcome State Fault Refusal := .next (runCode 0xF#4 s)

end Sys2Proof.Machine
end

