-- ==== Sys2Proof/Machine/Operands.lean ====
section
/-! DEFINITION. Machine/Operands: the operand forms that are not in the word: the payload items of the command port
(R87), and the byte order of what they carry (R11, R62, R63). -/

namespace Sys2Proof.Machine

/-- `n` times `PortRead()` (R10, R87): the next `n` payload items and the moves after them. `none`: the host does not
supply them, the command waits for ever (R295). -/
def takeItems : Nat → List HostMove → Option (List Item × List HostMove)
  | 0, ms => some ([], ms)
  | n + 1, .item w :: ms => (takeItems n ms).map (fun r => (w :: r.1, r.2))
  | _ + 1, .code _ :: _ => none
  | _ + 1, .reset :: _ => none
  | _ + 1, [] => none

/-- An 8-bit payload item (R87): the low 8 bits of its place on the port (log 7). -/
def itemByte (w : Item) : Byte := w.setWidth 8

/-- A 16-bit payload item, an `i16` in two's complement (R87): the low 16 bits of its place on the port (log 7). -/
def itemSample (w : Item) : Sample := w.setWidth 16

/-- A 32-bit length item, unsigned (R87). -/
def itemLength (w : Item) : Nat := w.toNat

/-- The sample items in frame order (R87): `n` frames of `c` samples, sample `j` of every array in frame `j`. -/
def framesOf (c : Nat) : Nat → List Sample → List (List Sample)
  | 0, _ => []
  | n + 1, xs => xs.take c :: framesOf c n (xs.drop c)

/-- `le16(b0, b1)` (R11, R62) as its 16 bits. -/
def le16 (b0 b1 : Byte) : BitVec 16 := b1 ++ b0

/-- `le32(b0, b1, b2, b3)` (R11, R63) as its 32 bits. -/
def le32 (b0 b1 b2 b3 : Byte) : BitVec 32 := b3 ++ b2 ++ b1 ++ b0

/-- `bytes_le16(v)` (R11, R62): low byte, then high byte. -/
def bytesLe16 (v : Sample) : List Byte := [v.extractLsb' 0 8, v.extractLsb' 8 8]

end Sys2Proof.Machine
end

