-- ==== Sys2Proof/Machine/Block.lean ====
section
/-! DEFINITION. Machine/Block: the block format (R90 to R93) read by the decoder (R153 to R156) and written by the
encoder (R188, R189, R191). -/

namespace Sys2Proof.Machine

/-- Byte `i` of a block. -/
def blockByte (blk : List Byte) (i : Nat) : Byte := blk.getD i 0

/-! Reading a block. -/

/-- Header parse for channel `c` (R153): the reference sample as `i16`, the step-index byte clamped; byte `4c + 3` is
not read. -/
def parseHeader (blk : List Byte) (c : Nat) : Predictor :=
  ⟨(le16 (blockByte blk (4 * c)) (blockByte blk (4 * c + 1))).toInt,
   clampStepIndex ((blockByte blk (4 * c + 2)).toNat : Int)⟩

/-- The 32-bit word of codes that channel `c` owns in chunk `k` of a block for `n` channels (R91, R154). -/
def codeWord (n : Nat) (blk : List Byte) (k c : Nat) : BitVec 32 :=
  let o := 4 * n + 4 * (k * n + c)
  le32 (blockByte blk o) (blockByte blk (o + 1)) (blockByte blk (o + 2)) (blockByte blk (o + 3))

/-- Nibble `j` of a code word, least significant first (R63, R154). -/
def nibble (v : BitVec 32) (j : Nat) : Code := v.extractLsb' (4 * j) 4

/-- The eight codes of one word in sample order (R63). -/
def wordCodes (v : BitVec 32) : List Code := (List.range Config.samplesPerChunk).map (nibble v)

/-- One channel while a block is decoded: the running pair `P[c]`, `I[c]` and the samples put out so far (R154). It
exists only inside the decoding of one block (R30, R153). -/
structure Lane where
  pr : Predictor
  out : List Sample
deriving DecidableEq, Repr

/-- One code of the body (R154): advance, and the new running sample is the next output sample. -/
def Lane.step (l : Lane) (code : Code) : Lane :=
  let p := advance l.pr code
  ⟨p, l.out ++ [BitVec.ofInt 16 p.pred]⟩

/-- The eight codes of channel `c` in chunk `k` (R154). -/
def Lane.chunk (n : Nat) (blk : List Byte) (k : Nat) (c : Nat) (l : Lane) : Lane :=
  (wordCodes (codeWord n blk k c)).foldl Lane.step l

/-- Body unpack (R154): after all headers are parsed (R153), chunk by chunk, and within a chunk channel by channel. -/
def unpackBlock (n : Nat) (blk : List Byte) : List Lane :=
  (List.range Config.chunksPerBlock).foldl
    (fun lanes k => lanes.zipIdx.map (fun lc => lc.1.chunk n blk k lc.2))
    ((List.range n).map (fun c => ⟨parseHeader blk c, []⟩))

/-- `decodeBlock(blk, C)` (R153 to R156): one list of 64 samples a channel, channel 0 first. -/
def decodeBlock (n : Nat) (blk : List Byte) : List (List Sample) := (unpackBlock n blk).map Lane.out

/-! Writing a block. -/

/-- A channel's four header bytes (R90, R189): reference sample little-endian, step index, 0. -/
def headerBytes (ref : Sample) (idx : Nat) : List Byte := bytesLe16 ref ++ [BitVec.ofNat 8 idx, 0]

/-- Two codes in one byte, low nibble first (R63, R92). -/
def codeByte (lo hi : Code) : Byte := hi ++ lo

/-- The four bytes that hold codes `8k .. 8k + 7` of one channel (R91). -/
def chunkBytes (codes : List Code) (k : Nat) : List Byte :=
  (List.range 4).map (fun b => codeByte (codes.getD (8 * k + 2 * b) 0) (codes.getD (8 * k + 2 * b + 1) 0))

/-- The body of a block (R91): chunk by chunk, and within a chunk channel by channel. -/
def bodyBytes (codes : List (List Code)) : List Byte :=
  (List.range Config.chunksPerBlock).flatMap (fun k => codes.flatMap (fun cs => chunkBytes cs k))

/-- A whole block (R90, R91): all headers, then the body. -/
def blockOf (headers : List (List Byte)) (codes : List (List Code)) : List Byte := headers.flatten ++ bodyBytes codes

end Sys2Proof.Machine
end

