-- ==== Sys2Proof/Machine/Flags.lean ====
section
/-! DEFINITION. Machine/Flags: the status outputs (R37, R38) and the checks a command makes before anything else (R264). -/

namespace Sys2Proof.Machine

/-- `STATUS` (R37), bit 31 first: ENC_LA, ENC_CH, DEC_CH, reserved 15:13, ENC_PINIT, ENC_POISON, DEC_POISON, ENC_CFG,
DEC_CFG, FAULT_CAUSE, reserved 3:1, HALTED. -/
def State.status (s : State) : BitVec 32 :=
  s.e.L ++ s.e.C ++ s.d.C ++ 0#3 ++ BitVec.ofBool s.e.pinit ++ BitVec.ofBool s.e.poison ++
    BitVec.ofBool s.d.poison ++ BitVec.ofBool s.e.cfg ++ BitVec.ofBool s.d.cfg ++ s.g.faultCause ++ 0#3 ++
    BitVec.ofBool s.g.halted

/-- `FAULT_CMD` (R38). -/
def State.faultCmdReg (s : State) : BitVec 32 := s.g.faultCmd

/-- The legal channel counts (R82): 1 to 8. -/
def legalChannelCount (ch : Nat) : Bool := decide (1 ≤ ch) && decide (ch ≤ Config.maxChannels)

/-- Checks 3 of R264: the decoder is configured, else cause 4; then not poisoned, else cause 5. -/
def Decoder.check (d : Decoder) : Option Cause :=
  if d.cfg = false then some .notConfigured
  else if d.poison = true then some .poisoned
  else none

/-- Checks 4 of R264: the encoder is configured, else cause 4; then not poisoned, else cause 5. -/
def Encoder.check (e : Encoder) : Option Cause :=
  if e.cfg = false then some .notConfigured
  else if e.poison = true then some .poisoned
  else none

/-- Check 5 of R264: the array count is `E.C` and all lengths are equal (R181). -/
def arraysMatch (narr c : Nat) (lens : List Nat) : Bool :=
  decide (narr = c) && lens.all (fun n => n == lens.headD 0)

/-- A command on a core that is not halted, after the check that can fault it: "Every command is refused while
`G.halted = 1`" (R263), a failed check takes its fault (R262), else the command's own effect. -/
def guarded (i : Instr) (check : Option Cause) (s : State)
    (body : State → Host.Outcome State Fault Refusal) : Host.Outcome State Fault Refusal :=
  if s.g.halted = true then .fault .halted
  else
    match check with
    | some cause => .next (raiseFault cause (cmdWord i) s)
    | none => body s

end Sys2Proof.Machine
end

