-- ==== Sys2Proof/Machine/Decoder.lean ====
section
/-! DEFINITION. Machine/Decoder: the decoder engine's commands DEC_INIT and DEC_DATA (41_decoder.md). -/

namespace Sys2Proof.Machine

/-- DEC_INIT (R150): cause 1 unless `ch` is 1 to 8, with no decoder field changed; else a new stream, leftover bytes
dropped (R157). It makes no sink request. -/
def execDecInit (ch : Nat) (s : State) : Host.Outcome State Fault Refusal :=
  guarded (.decInit ch) (if legalChannelCount ch then none else some .badChannelCount) s fun s =>
    .next (complete .ok
      { s with d := { s.d with C := BitVec.ofNat 4 ch, len := 0, poison := false, cfg := true } })

/-- `D.acc[D.len] <- b`, `D.len <- D.len + 1` (R151). -/
def Decoder.push (d : Decoder) (b : Byte) : Decoder :=
  { d with acc := d.acc.setIfInBounds d.len b, len := d.len + 1 }

/-- `D.acc[0 .. B - 1]` with `B = 36 * D.C` (R151). -/
def Decoder.block (d : Decoder) : List Byte := d.acc.toList.take (blockBytes d.C.toNat)

/-- The reserve count of DEC_DATA, in samples a channel (R152). -/
def decReserveCount (d : Decoder) (n : Nat) : Nat :=
  ceilDiv (d.len + n) (blockBytes d.C.toNat) * Config.samplesPerBlock

/-- The byte loop of DEC_DATA (R151): a buffer that becomes exactly full is decoded and written in one call (R156) and
cleared; a write error poisons the decoder with `D.len` still `36 * D.C`, and the rest of the payload is dropped
(R158, R265, R266). -/
def decodeBytes : List Byte → Decoder → DecSink → Decoder × DecSink × Result
  | [], d, k => (d, k, .ok)
  | b :: bs, d, k =>
    let d' := d.push b
    if d'.len = blockBytes d'.C.toNat then
      match k.ask (.write (decodeBlock d'.C.toNat d'.block)) with
      | (k', .err e) => ({ d' with poison := true }, k', .sinkErr e)
      | (k', .ok) => decodeBytes bs { d' with len := 0 } k'
    else decodeBytes bs d' k

/-- DEC_DATA after its checks, on its payload bytes (R151): one reserve request, then the byte loop. -/
def decodeCommand (bytes : List Byte) (s : State) : State :=
  match s.decSink.ask (.reserve (decReserveCount s.d bytes.length)) with
  | (k, .err e) => complete (.sinkErr e) { s with d := { s.d with poison := true }, decSink := k }
  | (k, .ok) =>
    let r := decodeBytes bytes s.d k
    complete r.2.2 { s with d := r.1, decSink := r.2.1 }

/-- DEC_DATA (R151): cause 4, then cause 5, before any payload item is taken (R264); then `len` payload bytes, all
taken from the command port whatever the sink answers (R265). -/
def execDecData (len : Nat) (s : State) : Host.Outcome State Fault Refusal :=
  guarded (.decData len) s.d.check s fun s =>
    match takeItems len s.input with
    | none => .fault .payloadMissing
    | some (items, rest) => .next (decodeCommand (items.map itemByte) { s with input := rest })

end Sys2Proof.Machine
end

