-- ==== Sys2Proof/Machine/Search.lean ====
section
/-! DEFINITION. Machine/Search: the lookahead minimum-error search (43_search.md), a pure function: it reads a
predictor pair and a window and writes no state (R239). -/

namespace Sys2Proof.Machine

/-- `firstGuess(pred, idx, t)` (R230). PRESUMED (log 8): the formula is the spec's own supply from general knowledge
(I3, decision D12). -/
def firstGuess (p : Predictor) (t : Int) : Code :=
  let mag := min ((t - p.pred).natAbs * 4 / stepSize p.idx) 7
  if t - p.pred < 0 then 0x8#4 ||| BitVec.ofNat 4 mag else BitVec.ofNat 4 mag

/-- The squared error of a reconstructed value against its target (R231, R232), an exact non-negative integer (R238). -/
def squaredError (value t : Int) : Nat := (value - t).natAbs ^ 2

/-- `err_k` (R231): the immediate error of code `k` from a predictor pair, on the clamped value. -/
def codeError (p : Predictor) (t : Int) (k : Code) : Nat := squaredError (advance p k).pred t

/-- The codes other than the first guess, in ascending order (R234). -/
def otherCodes (g : Code) : List Code := ((List.range 16).map (BitVec.ofNat 4)).filter (fun k => k != g)

/-- One candidate of the loop of R233: pruned when its immediate error alone is not below the best total, else its
total replaces the best only when strictly smaller. -/
def tryCode (immediate future : Code → Nat) (best : Nat × Code) (k : Code) : Nat × Code :=
  if immediate k < best.1 then
    if immediate k + future k < best.1 then (immediate k + future k, k) else best
  else best

/-- `minError(pred, idx, W, p, d)` (R232, R233): the minimum error and the code that reaches it. `W` is the window read
by position, `d` the remaining lookahead. -/
def minError (W : Nat → Int) : Nat → Predictor → Nat → Nat × Code
  | 0, pr, p =>
    let g := firstGuess pr (W p)
    (codeError pr (W p) g, g)
  | d + 1, pr, p =>
    let g := firstGuess pr (W p)
    let future := fun k => (minError W d (advance pr k) (p + 1)).1
    (otherCodes g).foldl (tryCode (codeError pr (W p)) future) (codeError pr (W p) g + future g, g)

end Sys2Proof.Machine
end

