-- ==== Sys2Proof/Machine/Encoder.lean ====
section
/-! DEFINITION. Machine/Encoder: the encoder engine: predictor initialisation (R185 to R187), block packing (R188 to
R193) and the commands ENC_INIT, ENC_DATA, ENC_FINISH and ENC_RESET (42_encoder.md). -/

namespace Sys2Proof.Machine

/-! Predictor initialisation. -/

/-- `tdiv8(x)`: division by 8 truncated toward zero (R9). -/
def tdiv8 (x : Int) : Int := x.tdiv 8

/-- The decaying average of a full window (R185): `i` runs upward over all 65 pairs. -/
def decayingAverage (W : Nat → Int) : Int :=
  (List.range (Config.windowLen - 1)).foldl (fun avg i => tdiv8 (avg + (W (i + 1) - W i))) 0

/-- `MIDPOINT(i)`, rounded down (R186). PRESUMED (log 8): the rounding (I4, decision D17). -/
def stepMidpoint (i : Nat) : Nat := (stepSize i + stepSize (i + 1)) / 2

/-- Index selection (R186): the smallest `i` in 0 to 87 with `avg < MIDPOINT(i)`, else 88. -/
def selectIndex (avg : Int) : Nat :=
  ((List.range Config.maxStepIndex).find? (fun i => decide (avg < (stepMidpoint i : Int)))).getD Config.maxStepIndex

/-- The seed of one channel (R186): predicted sample 0, the index selected from the window's average. -/
def Channel.seed (ch : Channel) : Channel := { ch with pr := ⟨0, selectIndex (decayingAverage ch.entry)⟩ }

/-- `initPredictors()` (R187): every channel the first time a window is packed in a session, nothing after that. -/
def Encoder.initPredictors (e : Encoder) : Encoder :=
  if e.pinit = true then e
  else { e with chan := updateChannels (fun _ ch => ch.seed) e.C.toNat e.chan, pinit := true }

/-! Block packing. -/

/-- The lookahead depth at window position `p` (R237): `min(E.L, 65 - p)`. -/
def lookaheadDepth (la : Nat) (p : Nat) : Nat := min la (65 - p)

/-- The coding loop of one channel (R191): from position `p` on, `n` codes, each chosen by the search (R233) and applied
by `advance`; the window is only read. -/
def codeSamples (la : Nat) (W : Nat → Int) : Nat → Nat → Predictor → Predictor × List Code
  | 0, _, pr => (pr, [])
  | n + 1, p, pr =>
    let code := (minError W (lookaheadDepth la p) pr p).2
    let r := codeSamples la W n (p + 1) (advance pr code)
    (r.1, code :: r.2)

/-- The reference sample `E.win[c][0]` as its 16 bits (R189). -/
def Channel.reference (ch : Channel) : Sample := (ch.win[0]?).getD 0

/-- A channel's header (R189): the window's first entry and the current step index. -/
def Channel.header (ch : Channel) : List Byte := headerBytes ch.reference ch.pr.idx

/-- Positions 1 to 64 of a channel coded (R191) from the predictor loaded with the window's first entry after the
header is written (R190). Irreducible for the elaborator, so that no proof unrolls the 64 positions by accident: unfold
it by name. -/
@[irreducible] def Channel.coded (la : Nat) (ch : Channel) : Predictor × List Code :=
  codeSamples la ch.entry Config.samplesPerBlock 1 ⟨ch.entry 0, ch.pr.idx⟩

/-- Window shift (R192): entries 64 and 65 move to 0 and 1. -/
def Channel.shift (ch : Channel) : Channel :=
  (ch.setEntry 0 ((ch.win[64]?).getD 0)).setEntry 1 ((ch.win[65]?).getD 0)

/-- A channel after its part of a block: the predictor the coding loop left, the window shifted (R191, R192). -/
def Channel.packed (la : Nat) (ch : Channel) : Channel := { ch.shift with pr := (ch.coded la).1 }

/-- The bytes of the block that the channels, once initialised, pack to (R188 to R191). -/
def Encoder.packedBytes (e : Encoder) : List Byte :=
  blockOf ((List.range e.C.toNat).map (fun c => (e.channel c).header))
    ((List.range e.C.toNat).map (fun c => ((e.channel c).coded e.L.toNat).2))

/-- `packBlock()` up to its write (R188): the encoder after the shift, and the block. The write comes last (R193). -/
def Encoder.packBlock (e : Encoder) : Encoder × List Byte :=
  let e' := e.initPredictors
  ({ e' with chan := updateChannels (fun _ ch => ch.packed e'.L.toNat) e'.C.toNat e'.chan, fill := 2 },
   e'.packedBytes)

/-- `packBlock()` with its one `SinkWrite` (R188, R193); a write error poisons the encoder in its post-block state
(R266). -/
def Encoder.emitBlock (e : Encoder) (k : EncSink) : Encoder × EncSink × Result :=
  let r := e.packBlock
  match k.ask (.write r.2) with
  | (k', .err x) => ({ r.1 with poison := true }, k', .sinkErr x)
  | (k', .ok) => (r.1, k', .ok)

/-! The commands. -/

/-- ENC_INIT (R180): cause 1 unless `ch` is 1 to 8, with no encoder field changed; else a new session with the seed 0 at
entry 0 of every window. It makes no sink request. -/
def execEncInit (ch la : Nat) (s : State) : Host.Outcome State Fault Refusal :=
  guarded (.encInit ch la) (if legalChannelCount ch then none else some .badChannelCount) s fun s =>
    .next (complete .ok
      { s with
        e := { s.e with
          C := BitVec.ofNat 4 ch
          L := BitVec.ofNat 8 la
          chan := updateAll (fun c => { c.setEntry 0 0 with pr := Predictor.zero }) s.e.chan
          fill := 1
          pinit := false
          poison := false
          cfg := true } })

/-- One frame into the windows (R183): sample `c` of the frame at position `E.fill` of channel `c`. -/
def Encoder.pushFrame (e : Encoder) (frame : List Sample) : Encoder :=
  { e with
    chan := updateChannels (fun c ch => ch.setEntry e.fill (frame.getD c 0)) e.C.toNat e.chan
    fill := e.fill + 1 }

/-- The frame loop of ENC_DATA (R181, R183): a window that becomes full is packed at once (R184); a write error drops
the frames left (R265). -/
def encodeFrames : List (List Sample) → Encoder → EncSink → Encoder × EncSink × Result
  | [], e, k => (e, k, .ok)
  | f :: fs, e, k =>
    let e' := e.pushFrame f
    if e'.fill = Config.windowLen then
      match e'.emitBlock k with
      | (e'', k', .sinkErr x) => (e'', k', .sinkErr x)
      | (e'', k', .ok) => encodeFrames fs e'' k'
    else encodeFrames fs e' k

/-- The reserve count of ENC_DATA, in bytes (R182). -/
def encReserveCount (e : Encoder) (n : Nat) : Nat :=
  ceilDiv (e.fill - 1 + n) Config.samplesPerBlock * blockBytes e.C.toNat

/-- ENC_DATA after its checks, on its frames (R181): one reserve request, then the frame loop. -/
def encodeCommand (frames : List (List Sample)) (s : State) : State :=
  match s.encSink.ask (.reserve (encReserveCount s.e frames.length)) with
  | (k, .err x) => complete (.sinkErr x) { s with e := { s.e with poison := true }, encSink := k }
  | (k, .ok) =>
    let r := encodeFrames frames s.e k
    complete r.2.2 { s with e := r.1, encSink := r.2.1 }

/-- The sample part of ENC_DATA (R87, R181): `n` frames of `E.C` samples, all taken from the command port whatever the
sink answers (R265). -/
def takeFrames (n : Nat) (s : State) : Host.Outcome State Fault Refusal :=
  match takeItems (n * s.e.C.toNat) s.input with
  | none => .fault .payloadMissing
  | some (items, rest) =>
    .next (encodeCommand (framesOf s.e.C.toNat n (items.map itemSample)) { s with input := rest })

/-- ENC_DATA (R181): cause 4, then cause 5, before any item is taken; then the `narr` length items, which stay taken when
cause 2 is raised (R262, R264); then the samples. -/
def execEncData (narr : Nat) (s : State) : Host.Outcome State Fault Refusal :=
  guarded (.encData narr) s.e.check s fun s =>
    match takeItems narr s.input with
    | none => .fault .payloadMissing
    | some (lens, rest) =>
      if arraysMatch narr s.e.C.toNat (lens.map itemLength) then
        takeFrames ((lens.map itemLength).headD 0) { s with input := rest }
      else .next (raiseFault .arrayMismatch (cmdWord (.encData narr)) { s with input := rest })

/-- Zero padding (R194): entries `E.fill` to 65 of every channel become 0 and the window is full. -/
def Channel.pad (fill : Nat) (ch : Channel) : Channel :=
  (List.range' fill (Config.windowLen - fill)).foldl (fun c i => c.setEntry i 0) ch

/-- The padded encoder of ENC_FINISH (R194). -/
def Encoder.pad (e : Encoder) : Encoder :=
  { e with chan := updateChannels (fun _ ch => ch.pad e.fill) e.C.toNat e.chan, fill := Config.windowLen }

/-- ENC_FINISH after its checks (R194): with a sample buffered, one padded block and no reserve; a sink error skips
`resetSession`. -/
def finishCommand (s : State) : State :=
  if 2 ≤ s.e.fill then
    match s.e.pad.emitBlock s.encSink with
    | (e, k, .sinkErr x) => complete (.sinkErr x) { s with e := e, encSink := k }
    | (e, k, .ok) => complete .ok { s with e := e.resetSession, encSink := k }
  else complete .ok { s with e := s.e.resetSession }

/-- ENC_FINISH (R194). -/
def execEncFinish (s : State) : Host.Outcome State Fault Refusal :=
  guarded .encFinish s.e.check s fun s => .next (finishCommand s)

/-- ENC_RESET (R195): everything buffered is dropped without output. -/
def execEncReset (s : State) : Host.Outcome State Fault Refusal :=
  guarded .encReset s.e.check s fun s => .next (complete .ok { s with e := s.e.resetSession })

end Sys2Proof.Machine
end

