-- ==== Sys2Proof/Machine/Dispatch.lean ====
section
/-! DEFINITION. Machine/Dispatch: one arm per instruction. -/

namespace Sys2Proof.Machine

def exec (i : Instr) (s : State) : Host.Outcome State Fault Refusal :=
  match i with
  | .decInit ch => Sys2Proof.Machine.execDecInit ch s
  | .decData len => Sys2Proof.Machine.execDecData len s
  | .encInit ch la => Sys2Proof.Machine.execEncInit ch la s
  | .encData narr => Sys2Proof.Machine.execEncData narr s
  | .encFinish => Sys2Proof.Machine.execEncFinish s
  | .encReset => Sys2Proof.Machine.execEncReset s
  | .code0 => Sys2Proof.Machine.execCode0 s
  | .code1 => Sys2Proof.Machine.execCode1 s
  | .code2 => Sys2Proof.Machine.execCode2 s
  | .code3 => Sys2Proof.Machine.execCode3 s
  | .code4 => Sys2Proof.Machine.execCode4 s
  | .code5 => Sys2Proof.Machine.execCode5 s
  | .code6 => Sys2Proof.Machine.execCode6 s
  | .code7 => Sys2Proof.Machine.execCode7 s
  | .code8 => Sys2Proof.Machine.execCode8 s
  | .code9 => Sys2Proof.Machine.execCode9 s
  | .codeA => Sys2Proof.Machine.execCodeA s
  | .codeB => Sys2Proof.Machine.execCodeB s
  | .codeC => Sys2Proof.Machine.execCodeC s
  | .codeD => Sys2Proof.Machine.execCodeD s
  | .codeE => Sys2Proof.Machine.execCodeE s
  | .codeF => Sys2Proof.Machine.execCodeF s

end Sys2Proof.Machine
end

