-- ==== Sys2Proof/Machine/Fetch.lean ====
section
/-! DEFINITION. Machine/Fetch: what a step takes from the host's coming moves (R39, R263, R276, R290, R294). -/

namespace Sys2Proof.Machine

/-- What a step finds. -/
inductive Fetched where
  /-- An instruction to run, on the state in which its word has been taken. -/
  | execute (i : Instr) (s : State)
  /-- No instruction: the state after what happened. -/
  | settled (s : State)
  /-- No step is enabled. -/
  | stopped (f : Fault)

/-- The core takes a command word (R39): its instruction, or for an illegal word the fault of cause 3, with no payload
taken (R88). -/
def takeWord (w : Item) (s : State) : Fetched :=
  match decode (.cmd w) with
  | .ok i => .execute i s
  | .error _ => .settled (raiseFault .illegalCmd w s)

/-- The next host move. Hardware reset acts halted or not (R290). A halted core takes nothing (R263): the host withdraws
what it presented (R295, log 1), and with no move to come no step is enabled. With no move to come a core that is not
halted is idle and holds its state (R275, R291). -/
def fetch (s : State) : Fetched :=
  match s.input with
  | .reset :: rest => .settled (hardwareReset { s with input := rest })
  | .item w :: rest =>
    if s.g.halted = true then .settled { s with input := rest } else takeWord w { s with input := rest }
  | .code c :: rest =>
    if s.g.halted = true then .settled { s with input := rest } else .execute (decodeCode c) { s with input := rest }
  | [] => if s.g.halted = true then .stopped .halted else .settled s

/-- An instruction's bits placed where `fetch` takes its next instruction: the host's next move. -/
def placeWord (nbits w : Nat) (s : State) : State :=
  { s with
    input := (if nbits ≤ 8 then .code (BitVec.ofNat 4 w) else .item (BitVec.ofNat 32 w)) :: s.input }

end Sys2Proof.Machine
end

