-- ==== Sys2Proof/Machine/Step.lean ====
section
/-! DEFINITION. Machine/Step: one step of the machine: one whole command (R12, R67, R294), one code run on its own, one
hardware reset, or nothing. -/

namespace Sys2Proof.Machine

/-- One step. -/
def step (s : State) : Host.Outcome State Fault Refusal :=
  match fetch s with
  | .execute i t => exec i t
  | .settled t => .next t
  | .stopped f => .fault f

/-- `s` with an instruction's bits presented as the host's next move, so that the next step takes it (log 1, log 2). -/
def State.withFetchWord (s : State) (nbits w : Nat) : State := placeWord nbits w s

end Sys2Proof.Machine
end

