-- ==== Sys2Proof/Safety.lean ====
section
/-! DEFINITION. Safety: what a run shows (R300), when it is a normal one (R263), and the invariant of the machine between
commands (R29, R31, R33, R41, R42, R134). -/

namespace Sys2Proof.Machine

/-- What a run shows (R300): the results in order, the requests each sink received in order with their payloads, and the
final `STATUS`. What the hidden buffers hold is not in it. -/
structure Observation where
  results : List Result
  decRequests : List (Request (List (List Sample)))
  encRequests : List (Request (List Byte))
  status : BitVec 32
deriving DecidableEq, Repr

/-- The observation of a state (R300). -/
def State.observe (s : State) : Observation := ⟨s.results, s.decSink.log, s.encSink.log, s.status⟩

/-- "no fault recorded" (R263): the premise of a claim about a run, and a normal end (R300). -/
def State.Safe (s : State) : Prop := s.g.halted = false

/-- A predictor pair is in range: an `i16` sample, a step index in [0, 88] (R31, R134). -/
def Predictor.InRange (p : Predictor) : Prop := -32768 ≤ p.pred ∧ p.pred ≤ 32767 ∧ p.idx ≤ 88

/-- `G` between commands: a halted core has a cause from 1 to 5, any other core has none recorded (R20, R261, R263). -/
def Global.Ok (g : Global) : Prop :=
  (g.halted = true → 1 ≤ g.faultCause.toNat ∧ g.faultCause.toNat ≤ 5) ∧
  (g.halted = false → g.faultCause = 0 ∧ g.faultCmd = 0)

/-- `D` between commands (R26 to R30): unconfigured and empty, or 1 to 8 channels with `D.len <= 36 * D.C`, below it
unless poisoned (R29). -/
def Decoder.Ok (d : Decoder) : Prop :=
  (d.cfg = false → d.C = 0 ∧ d.len = 0 ∧ d.poison = false) ∧
  (d.cfg = true → 1 ≤ d.C.toNat ∧ d.C.toNat ≤ 8 ∧ d.len ≤ blockBytes d.C.toNat ∧
    (d.poison = false → d.len < blockBytes d.C.toNat))

/-- `E` between commands (R31 to R35): unconfigured and empty, or 1 to 8 channels with `1 <= E.fill <= 65` (R33), and
every predictor in range (R31). -/
def Encoder.Ok (e : Encoder) : Prop :=
  (e.cfg = false → e.C = 0 ∧ e.L = 0 ∧ e.fill = 0 ∧ e.pinit = false ∧ e.poison = false) ∧
  (e.cfg = true → 1 ≤ e.C.toNat ∧ e.C.toNat ≤ 8 ∧ 1 ≤ e.fill ∧ e.fill ≤ 65) ∧
  (∀ c, c < 8 → (e.channel c).pr.InRange)

/-- A request the decoder sink may have received: a write is 1 to 8 lists of 64 samples (R41, R156). -/
def DecRequestOk : Request (List (List Sample)) → Prop
  | .reserve _ => True
  | .write p => 1 ≤ p.length ∧ p.length ≤ 8 ∧ ∀ l ∈ p, l.length = 64

/-- A request the encoder sink may have received: a write is one block of 36 bytes a channel (R42, R193). -/
def EncRequestOk : Request (List Byte) → Prop
  | .reserve _ => True
  | .write p => ∃ c, 1 ≤ c ∧ c ≤ 8 ∧ p.length = blockBytes c

/-- The invariant of the machine between commands. -/
structure State.Inv (s : State) : Prop where
  global : s.g.Ok
  decoder : s.d.Ok
  encoder : s.e.Ok
  decLog : ∀ r ∈ s.decSink.log, DecRequestOk r
  encLog : ∀ r ∈ s.encSink.log, EncRequestOk r
  pair : s.run.InRange

end Sys2Proof.Machine
end

