-- ==== Sys2Proof/Certificates/Slice0/Obligations.lean ====
section
/-! DEFINITION. Certificates/Slice0/Obligations: the statements about the machine, made from the spec's numbered rules. -/

namespace Sys2Proof.Claims
open Sys2Proof.Machine

/-! The terms the statements use beside the model's own. -/

/-- The decoder sink answers its next `n` requests OK (R272). -/
def DecAnswersOk (k : DecSink) (n : Nat) : Prop := ∀ i, i < n → k.answerAt Config.decAnswer i = .ok

/-- The encoder sink answers its next `n` requests OK (R272). -/
def EncAnswersOk (k : EncSink) (n : Nat) : Prop := ∀ i, i < n → k.answerAt Config.encAnswer i = .ok

/-- The payload items on the command port, before the host's later moves. -/
def presented (items : List Item) (rest : List HostMove) : List HostMove := items.map HostMove.item ++ rest

/-- The (mask, match) pairs of the six command rows, as spec/opcode_table.json prints them. -/
def tableRows : List (Item × Item) :=
  [(0xFFFF00FF#32, 0x00000001#32), (0x000000FF#32, 0x00000002#32), (0xFF0000FF#32, 0x00000003#32),
   (0xFFFF00FF#32, 0x00000004#32), (0xFFFFFFFF#32, 0x00000005#32), (0xFFFFFFFF#32, 0x00000006#32)]

/-- R88: the word matches exactly one row of the table. -/
def LegalWord (w : Item) : Prop := (tableRows.filter (fun r => w &&& r.1 == r.2)).length = 1

/-- The commands of the decoder engine. -/
def isDecCommand : Instr → Bool
  | .decInit _ => true
  | .decData _ => true
  | _ => false

/-- The commands of the encoder engine. -/
def isEncCommand : Instr → Bool
  | .encInit _ _ => true
  | .encData _ => true
  | .encFinish => true
  | .encReset => true
  | _ => false

/-- The six commands; the other instructions are the sixteen codes. -/
def isCommand (i : Instr) : Bool := isDecCommand i || isEncCommand i

/-- The live bytes of the accumulation buffer (R28). -/
def liveBytes (d : Decoder) : List Byte := d.acc.toList.take d.len

/-- The whole blocks of `b` bytes at the front of a byte stream, in order (R94, R159). -/
def wholeBlocks (b : Nat) (stream : List Byte) : List (List Byte) :=
  (List.range (stream.length / b)).map (fun i => (stream.drop (i * b)).take b)

/-- The payloads of the write requests of a log, in order. -/
def writesOf {α : Type} : List (Request α) → List α
  | [] => []
  | .reserve _ :: rs => writesOf rs
  | .write p :: rs => p :: writesOf rs

/-- The code of sample `s` of channel `c` where R92 puts it in a block for `n` channels. -/
def codeAt (n : Nat) (blk : List Byte) (c s : Nat) : Code :=
  let byte := blockByte blk (4 * n + 4 * (s / 8 * n + c) + s % 8 / 2)
  if s % 2 = 0 then byte.extractLsb' 0 4 else byte.extractLsb' 4 4

/-- The 64 codes of channel `c` in sample order. -/
def channelCodes (n : Nat) (blk : List Byte) (c : Nat) : List Code := (List.range 64).map (codeAt n blk c)

/-- The samples a code list gives one channel, from its running pair (R115, R154). -/
def samplesFrom : Predictor → List Code → List Sample
  | _, [] => []
  | p, k :: ks => BitVec.ofInt 16 (advance p k).pred :: samplesFrom (advance p k) ks

/-- The search of R233 with the prune removed and every candidate evaluated in the order of R234 (R236). -/
def bruteForce (W : Nat → Int) : Nat → Predictor → Nat → Nat × Code
  | 0, pr, p => (codeError pr (W p) (firstGuess pr (W p)), firstGuess pr (W p))
  | d + 1, pr, p =>
    let total := fun k => codeError pr (W p) k + (bruteForce W d (advance pr k) (p + 1)).1
    (otherCodes (firstGuess pr (W p))).foldl
      (fun best k => if total k < best.1 then (total k, k) else best)
      (total (firstGuess pr (W p)), firstGuess pr (W p))

/-- The total error of code `k` at position `p` with `d` levels of lookahead below it (R233, R235). -/
def totalError (W : Nat → Int) (d : Nat) (pr : Predictor) (p : Nat) (k : Code) : Nat :=
  codeError pr (W p) k + (minError W d (advance pr k) (p + 1)).1

/-- Every entry of a window is an `i16` value (R32). -/
def SampleWindow (W : Nat → Int) : Prop := ∀ i, -32768 ≤ W i ∧ W i ≤ 32767

/-- How many blocks ENC_DATA emits when `n` frames come to a window with `fill` live entries (R184, R192, R197). -/
def blocksEmitted (fill n : Nat) : Nat := (fill + n - 2) / 64

/-- The ENC_DATA payload for `c` arrays of `n` samples (R87): the lengths, then the sample items. -/
def encPayload (c n : Nat) (samples : List Item) : List Item := List.replicate c (BitVec.ofNat 32 n) ++ samples

/-- No further item follows on the command port: the host's coming moves end, or go on with a move that is no item. -/
def CutOff (rest : List HostMove) : Prop := ∀ w later, rest ≠ .item w :: later

/-- Entry `p` of channel `c`'s sample stream during ENC_DATA: the live entries of the window, then the payload's samples in
frame order (R87, R183). -/
def sampleStream (e : Encoder) (samples : List Item) (c p : Nat) : Int :=
  if p < e.fill then (e.channel c).entry p
  else (itemSample (samples.getD ((p - e.fill) * e.C.toNat + c) 0)).toInt

/-- `fulls` are the encoders with a full window that are packed one after another from `prev` on, the first as block `b` of
the stream `W`, and `last` is what the last packing leaves. Block `b`'s window holds entries `64 * b` to `64 * b + 65` of
each channel's stream (R183, R192), and its predictors are those the encoder before it was left with (R187, R191). -/
def PackedInTurn (W : Nat → Nat → Int) : Nat → Encoder → List Encoder → Encoder → Prop
  | _, prev, [], last => last = prev
  | b, prev, full :: fulls, last =>
    full.fill = 66 ∧ full.C = prev.C ∧ full.L = prev.L ∧ full.cfg = prev.cfg ∧ full.pinit = prev.pinit ∧
    (∀ c, c < prev.C.toNat → (full.channel c).pr = (prev.channel c).pr ∧
      ∀ i, i < 66 → (full.channel c).entry i = W c (64 * b + i)) ∧
    PackedInTurn W (b + 1) full.packBlock.1 fulls last

end Sys2Proof.Claims

open Sys2Proof Sys2Proof.Machine Sys2Proof.Claims

/-! ## Encoding -/

/-- R81, R86, R97: decoding the encoding of any well-formed instruction gives it back, every operand at every value. -/
def Obligations.DecodeOfEncodeIsTheInstruction : Prop :=
  ∀ i : Instr, i.WellFormed = true → decode (encode i) = .ok i

/-- R88, R262: a word has one meaning: what decodes to an instruction is that instruction's encoding, and the
instruction is well-formed, so the word a fault records is the word taken. -/
def Obligations.DecodedWordIsTheEncoding : Prop :=
  ∀ (w : InstrWord) (i : Instr), decode w = .ok i → encode i = w ∧ i.WellFormed = true

/-- 95_test_vectors W-1, W-3, W-5, W-7, W-8, W-10, W-11, W-13 and R97: words written out from the encodings decode to what
they stand for. -/
def Obligations.PublishedWordsDecode : Prop :=
  decode (.cmd 0x00000101#32) = .ok (.decInit 1) ∧
  decode (.cmd 0x00000901#32) = .ok (.decInit 9) ∧
  decode (.cmd 0xFFFFFF02#32) = .ok (.decData 16777215) ∧
  decode (.cmd 0x00010203#32) = .ok (.encInit 2 1) ∧
  decode (.cmd 0x00FF0103#32) = .ok (.encInit 1 255) ∧
  decode (.cmd 0x00000204#32) = .ok (.encData 2) ∧
  decode (.cmd 0x00000005#32) = .ok .encFinish ∧
  decode (.cmd 0x00000006#32) = .ok .encReset ∧
  decode (.code 0x3#4) = .ok .code3 ∧
  decode (.code 0xC#4) = .ok .codeC

/-- R88: a word is legal when it matches exactly one row; an illegal word faults with cause 3, recording the word, takes no
payload and changes nothing else. -/
def Obligations.WordRunsOrFaultsAsIllegal : Prop :=
  ∀ (s : State) (w : Item) (rest : List HostMove), s.g.halted = false → s.input = .item w :: rest →
    (LegalWord w → ∃ i, decode (.cmd w) = .ok i ∧ isCommand i = true ∧ step s = exec i { s with input := rest }) ∧
    (¬ LegalWord w → step s = .next { s with input := rest, g := ⟨true, 3, w⟩ })

/-! ## The step -/

/-- R39, R294: when the next item decodes to an instruction, a step is that instruction run on the state in which the
item has been taken; a code run on its own likewise (the model's move, log entry 2). -/
def Obligations.StepRunsTheDecodedInstruction : Prop :=
  (∀ (s : State) (w : Item) (rest : List HostMove) (i : Instr),
    s.g.halted = false → s.input = .item w :: rest → decode (.cmd w) = .ok i →
    step s = exec i { s with input := rest }) ∧
  (∀ (s : State) (c : Code) (rest : List HostMove),
    s.g.halted = false → s.input = .code c :: rest → step s = exec (decodeCode c) { s with input := rest })

/-- R263, R270: a halted core runs no command and takes no item: the item is withdrawn (the model's choice, log entry 1) and
nothing else changes, and when no move is left no step is enabled. -/
def Obligations.HaltedCoreTakesNothing : Prop :=
  ∀ s : State, s.g.halted = true →
    (∀ i, isCommand i = true → exec i s = .fault .halted) ∧
    (∀ m rest, s.input = m :: rest → m ≠ .reset → step s = .next { s with input := rest }) ∧
    (s.input = [] → step s = .fault .halted)

/-- R275, R291: a core that is not halted and is given nothing stays as it is. -/
def Obligations.IdleCoreHoldsItsState : Prop :=
  ∀ s : State, s.g.halted = false → s.input = [] → step s = .next s

/-- R43, R290, R292: hardware reset puts every field for which R43 gives a value at that value, whatever state the core is
in, and reaches neither the sinks nor the results already given. -/
def Obligations.HardwareResetSetsEveryField : Prop :=
  ∀ (s : State) (rest : List HostMove), s.input = .reset :: rest →
    ∃ t, step s = .next t ∧
      t.g = ⟨false, 0, 0⟩ ∧
      t.d.cfg = false ∧ t.d.C = 0 ∧ t.d.len = 0 ∧ t.d.poison = false ∧
      t.e.cfg = false ∧ t.e.C = 0 ∧ t.e.L = 0 ∧ t.e.fill = 0 ∧ t.e.pinit = false ∧ t.e.poison = false ∧
      (∀ c, c < 8 → (t.e.channel c).pr.pred = 0 ∧ (t.e.channel c).pr.idx = 0) ∧
      t.status = 0 ∧ t.faultCmdReg = 0 ∧
      t.input = rest ∧ t.results = s.results ∧ t.decSink = s.decSink ∧ t.encSink = s.encSink

/-- R43, R291: the state after hardware reset. -/
def Obligations.ResetStateValues : Prop :=
  State.reset.g = ⟨false, 0, 0⟩ ∧
  State.reset.d.cfg = false ∧ State.reset.d.C = 0 ∧ State.reset.d.len = 0 ∧ State.reset.d.poison = false ∧
  State.reset.e.cfg = false ∧ State.reset.e.C = 0 ∧ State.reset.e.L = 0 ∧ State.reset.e.fill = 0 ∧
  State.reset.e.pinit = false ∧ State.reset.e.poison = false ∧
  (∀ c, c < 8 → (State.reset.e.channel c).pr.pred = 0 ∧ (State.reset.e.channel c).pr.idx = 0) ∧
  State.reset.status = 0 ∧ State.reset.faultCmdReg = 0

/-! ## Status -/

/-- R37, R38: the fields of `STATUS`, bit by bit, and `FAULT_CMD`; both read 0 at reset. -/
def Obligations.StatusShowsTheFields : Prop :=
  State.reset.status = 0 ∧ State.reset.faultCmdReg = 0 ∧
  ∀ s : State,
    s.status.extractLsb' 0 1 = BitVec.ofBool s.g.halted ∧
    s.status.extractLsb' 1 3 = 0 ∧
    s.status.extractLsb' 4 4 = s.g.faultCause ∧
    s.status.extractLsb' 8 1 = BitVec.ofBool s.d.cfg ∧
    s.status.extractLsb' 9 1 = BitVec.ofBool s.e.cfg ∧
    s.status.extractLsb' 10 1 = BitVec.ofBool s.d.poison ∧
    s.status.extractLsb' 11 1 = BitVec.ofBool s.e.poison ∧
    s.status.extractLsb' 12 1 = BitVec.ofBool s.e.pinit ∧
    s.status.extractLsb' 13 3 = 0 ∧
    s.status.extractLsb' 16 4 = s.d.C ∧
    s.status.extractLsb' 20 4 = s.e.C ∧
    s.status.extractLsb' 24 8 = s.e.L ∧
    s.faultCmdReg = s.g.faultCmd

/-! ## Primitives and codes -/

/-- R110, R111: the two tables have the properties the source states. -/
def Obligations.TablesHaveTheirStatedShape : Prop :=
  stepTable.length = 89 ∧ (∀ i, i < 88 → stepSize i < stepSize (i + 1)) ∧ (∀ i, i < 89 → stepSize i ≤ 65535) ∧
  indexTable.length = 16 ∧ (∀ c : Code, indexAdjust c = indexAdjust (c ||| 8#4))

/-- R112, R113: the two clamps, as the spec's formula and as the range they never leave. -/
def Obligations.ClampsStayInRange : Prop :=
  (∀ x : Int, clampSample x = min (max x (-32768)) 32767 ∧ -32768 ≤ clampSample x ∧ clampSample x ≤ 32767) ∧
  (∀ x : Int, (clampStepIndex x : Int) = min (max x 0) 88 ∧ clampStepIndex x ≤ 88)

/-- R114, R133: the reconstructed delta lies in [-61436, 61436], so neither `pred + delta` nor the index sum leaves its
named width before it is clamped. -/
def Obligations.DeltaAndSumsStayInTheirWidths : Prop :=
  (∀ (step : Nat) (code : Code), step ≤ 32767 →
    -61436 ≤ reconstructDelta step code ∧ reconstructDelta step code ≤ 61436) ∧
  (∀ (p : Predictor) (code : Code), p.InRange →
    -94204 ≤ p.pred + reconstructDelta (stepSize p.idx) code ∧
    p.pred + reconstructDelta (stepSize p.idx) code ≤ 94203 ∧
    -1 ≤ (p.idx : Int) + indexAdjust code ∧ (p.idx : Int) + indexAdjust code ≤ 96)

/-- R134: `advance` keeps the sample in `i16` range and the index in [0, 88]. -/
def Obligations.AdvanceKeepsItsRange : Prop :=
  ∀ (p : Predictor) (code : Code), p.InRange → (advance p code).InRange

/-- R116 to R119: codes 0 to 3 run on their own; nothing but the pair changes. -/
def Obligations.CodesZeroToThree : Prop :=
  ∀ s : State,
    let p := s.run.pred
    let i : Int := s.run.idx
    let st : Int := stepSize s.run.idx
    exec .code0 s = .next { s with run := ⟨clampSample (p + st / 8), clampStepIndex (i - 1)⟩ } ∧
    exec .code1 s = .next { s with run := ⟨clampSample (p + st / 8 + st / 4), clampStepIndex (i - 1)⟩ } ∧
    exec .code2 s = .next { s with run := ⟨clampSample (p + st / 8 + st / 2), clampStepIndex (i - 1)⟩ } ∧
    exec .code3 s = .next { s with run := ⟨clampSample (p + st / 8 + st / 4 + st / 2), clampStepIndex (i - 1)⟩ }

/-- R120 to R123: codes 4 to 7 run on their own; nothing but the pair changes. -/
def Obligations.CodesFourToSeven : Prop :=
  ∀ s : State,
    let p := s.run.pred
    let i : Int := s.run.idx
    let st : Int := stepSize s.run.idx
    exec .code4 s = .next { s with run := ⟨clampSample (p + st / 8 + st), clampStepIndex (i + 2)⟩ } ∧
    exec .code5 s = .next { s with run := ⟨clampSample (p + st / 8 + st / 4 + st), clampStepIndex (i + 4)⟩ } ∧
    exec .code6 s = .next { s with run := ⟨clampSample (p + st / 8 + st / 2 + st), clampStepIndex (i + 6)⟩ } ∧
    exec .code7 s = .next { s with run := ⟨clampSample (p + st / 8 + st / 4 + st / 2 + st), clampStepIndex (i + 8)⟩ }

/-- R124 to R127: codes 8 to B run on their own; nothing but the pair changes. -/
def Obligations.CodesEightToEleven : Prop :=
  ∀ s : State,
    let p := s.run.pred
    let i : Int := s.run.idx
    let st : Int := stepSize s.run.idx
    exec .code8 s = .next { s with run := ⟨clampSample (p - st / 8), clampStepIndex (i - 1)⟩ } ∧
    exec .code9 s = .next { s with run := ⟨clampSample (p - (st / 8 + st / 4)), clampStepIndex (i - 1)⟩ } ∧
    exec .codeA s = .next { s with run := ⟨clampSample (p - (st / 8 + st / 2)), clampStepIndex (i - 1)⟩ } ∧
    exec .codeB s = .next { s with run := ⟨clampSample (p - (st / 8 + st / 4 + st / 2)), clampStepIndex (i - 1)⟩ }

/-- R128 to R131: codes C to F run on their own; nothing but the pair changes. -/
def Obligations.CodesTwelveToFifteen : Prop :=
  ∀ s : State,
    let p := s.run.pred
    let i : Int := s.run.idx
    let st : Int := stepSize s.run.idx
    exec .codeC s = .next { s with run := ⟨clampSample (p - (st / 8 + st)), clampStepIndex (i + 2)⟩ } ∧
    exec .codeD s = .next { s with run := ⟨clampSample (p - (st / 8 + st / 4 + st)), clampStepIndex (i + 4)⟩ } ∧
    exec .codeE s = .next { s with run := ⟨clampSample (p - (st / 8 + st / 2 + st)), clampStepIndex (i + 6)⟩ } ∧
    exec .codeF s = .next { s with run := ⟨clampSample (p - (st / 8 + st / 4 + st / 2 + st)), clampStepIndex (i + 8)⟩ }

/-! ## The decoder -/

/-- R150: DEC_INIT with 1 to 8 channels starts a new stream; any other count faults with cause 1 and no decoder field
changes. The record equality also keeps the dead bytes of `D.acc`, the model's choice (log entry 3). -/
def Obligations.DecInitConfiguresOrFaults : Prop :=
  ∀ (s : State) (ch : Nat), s.g.halted = false →
    (1 ≤ ch ∧ ch ≤ 8 →
      ∃ t, exec (.decInit ch) s = .next t ∧ t.d.C.toNat = ch ∧
        t = { s with
          d := { s.d with C := t.d.C, len := 0, poison := false, cfg := true }
          results := s.results ++ [.ok] }) ∧
    (¬ (1 ≤ ch ∧ ch ≤ 8) →
      exec (.decInit ch) s = .next { s with g := ⟨true, 1, cmdWord (.decInit ch)⟩ })

/-- R264, R267: the data commands check configuration, then poison, before any payload item is taken; the fault changes
`G` alone. -/
def Obligations.DataCommandsCheckTheirEngine : Prop :=
  ∀ s : State, s.g.halted = false →
    (∀ n, (s.d.cfg = false → exec (.decData n) s = .next { s with g := ⟨true, 4, cmdWord (.decData n)⟩ }) ∧
      (s.d.cfg = true → s.d.poison = true →
        exec (.decData n) s = .next { s with g := ⟨true, 5, cmdWord (.decData n)⟩ })) ∧
    (∀ i, i = .encFinish ∨ i = .encReset ∨ (∃ n, i = .encData n) →
      (s.e.cfg = false → exec i s = .next { s with g := ⟨true, 4, cmdWord i⟩ }) ∧
      (s.e.cfg = true → s.e.poison = true → exec i s = .next { s with g := ⟨true, 5, cmdWord i⟩ }))

/-- R151, R152, R156, R157, R159: DEC_DATA, when every request is answered OK, makes one reserve request and then one write
for each whole block of the stream formed by the buffered and the new bytes, each the decoded block; the bytes after
the last whole block stay buffered; nothing but the decoder, its sink, the port and the results changes. -/
def Obligations.DecDataDecodesTheStream : Prop :=
  ∀ (s : State) (items : List Item) (rest : List HostMove),
    s.g.halted = false → s.d.Ok → s.d.cfg = true → s.d.poison = false → s.input = presented items rest →
    let b := blockBytes s.d.C.toNat
    let stream := liveBytes s.d ++ items.map itemByte
    DecAnswersOk s.decSink (1 + stream.length / b) →
    ∃ t, exec (.decData items.length) s = .next t ∧
      t.decSink.log = s.decSink.log ++
        .reserve (ceilDiv stream.length b * 64) ::
          (wholeBlocks b stream).map (fun blk => .write (decodeBlock s.d.C.toNat blk)) ∧
      t.d.len = stream.length % b ∧ liveBytes t.d = stream.drop (stream.length / b * b) ∧
      t.d.cfg = true ∧ t.d.C = s.d.C ∧ t.d.poison = false ∧
      t.results = s.results ++ [.ok] ∧ t.input = rest ∧
      t.g = s.g ∧ t.e = s.e ∧ t.encSink = s.encSink ∧ t.run = s.run

/-- R66, R159: when every request is answered OK, two DEC_DATA commands leave the decoder and have made the writes that one
DEC_DATA of the joined payloads leaves and makes. The equality of the decoders takes in
the dead bytes of `D.acc`, the model's choice (log entry 3). -/
def Obligations.DecDataSplitIsInvisible : Prop :=
  ∀ (s : State) (xs ys : List Item) (rest : List HostMove),
    s.g.halted = false → s.d.Ok → s.d.cfg = true → s.d.poison = false → s.input = presented (xs ++ ys) rest →
    DecAnswersOk s.decSink (2 + (s.d.len + xs.length + ys.length) / blockBytes s.d.C.toNat) →
    ∃ t₁ t₂ t, exec (.decData xs.length) s = .next t₁ ∧ t₁.input = presented ys rest ∧
      exec (.decData ys.length) t₁ = .next t₂ ∧ exec (.decData (xs.length + ys.length)) s = .next t ∧
      t₂.d = t.d ∧ t₂.input = t.input ∧ writesOf t₂.decSink.log = writesOf t.decSink.log

/-- R151, R265, R266: a reserve request answered `ERR(e)` ends DEC_DATA with that error: the whole payload is dropped, the
decoder is poisoned and otherwise as before, no further request is made. -/
def Obligations.DecDataReserveErrorPoisons : Prop :=
  ∀ (s : State) (items : List Item) (rest : List HostMove) (x : SinkError),
    s.g.halted = false → s.d.cfg = true → s.d.poison = false → s.input = presented items rest →
    s.decSink.answerAt Config.decAnswer 0 = .err x →
    ∃ t, exec (.decData items.length) s = .next t ∧ t.d = { s.d with poison := true } ∧
      (∃ n, t.decSink.log = s.decSink.log ++ [.reserve n]) ∧
      t.results = s.results ++ [.sinkErr x] ∧ t.input = rest ∧
      t.g = s.g ∧ t.e = s.e ∧ t.encSink = s.encSink ∧ t.run = s.run

/-- R151, R158, R265, R266, R268: when `k` block writes of DEC_DATA are answered OK and the next `ERR(e)`, for any `k`, the
command ends with that error after that write: every block before it was written, the failing block stays in the
buffer with `D.len` at a whole block (R266's value, which I13 lets a model leave open: log entry 10), the decoder is
poisoned and the rest of the payload is dropped. -/
def Obligations.DecDataWriteErrorPoisons : Prop :=
  ∀ (s : State) (items : List Item) (rest : List HostMove) (k : Nat) (x : SinkError),
    s.g.halted = false → s.d.Ok → s.d.cfg = true → s.d.poison = false → s.input = presented items rest →
    let b := blockBytes s.d.C.toNat
    let stream := liveBytes s.d ++ items.map itemByte
    (k + 1) * b ≤ stream.length →
    DecAnswersOk s.decSink (1 + k) → s.decSink.answerAt Config.decAnswer (1 + k) = .err x →
    ∃ t, exec (.decData items.length) s = .next t ∧
      t.d.poison = true ∧ t.d.len = b ∧ liveBytes t.d = (stream.drop (k * b)).take b ∧
      t.d.cfg = true ∧ t.d.C = s.d.C ∧
      t.decSink.log = s.decSink.log ++
        .reserve (ceilDiv stream.length b * 64) ::
          ((wholeBlocks b stream).take (k + 1)).map (fun blk => .write (decodeBlock s.d.C.toNat blk)) ∧
      t.results = s.results ++ [.sinkErr x] ∧ t.input = rest ∧
      t.g = s.g ∧ t.e = s.e ∧ t.encSink = s.encSink ∧ t.run = s.run

/-- R92, R153, R154, R155: what a decoded block holds for channel `c` is the run of that channel's 64 codes, each read where
R92 puts it, from that channel's header: no other byte of the block matters to it. -/
def Obligations.DecodedChannelDependsOnItsOwnBytes : Prop :=
  ∀ (n : Nat) (blk : List Byte),
    decodeBlock n blk = (List.range n).map (fun c => samplesFrom (parseHeader blk c) (channelCodes n blk c))

/-- R95, R153: the reserved fourth header byte of a channel is never interpreted. -/
def Obligations.ReservedHeaderByteIsIgnored : Prop :=
  ∀ (n : Nat) (blk blk' : List Byte),
    (∀ i, ¬ (i < 4 * n ∧ i % 4 = 3) → blockByte blk i = blockByte blk' i) → decodeBlock n blk = decodeBlock n blk'

/-- R62, R63, R90 to R92: the block format written and read back: every header and every code of every channel. -/
def Obligations.BlockFormatRoundTrip : Prop :=
  ∀ (hs : List (Sample × Nat)) (codes : List (List Code)), hs.length = codes.length →
    (∀ h ∈ hs, h.2 ≤ 88) → (∀ ks ∈ codes, ks.length = 64) →
    let n := hs.length
    let blk := blockOf (hs.map (fun h => headerBytes h.1 h.2)) codes
    blk.length = blockBytes n ∧
    ∀ c, c < n →
      parseHeader blk c = ⟨((hs.getD c (0, 0)).1).toInt, (hs.getD c (0, 0)).2⟩ ∧
      channelCodes n blk c = codes.getD c []

/-! ## The encoder -/

/-- R180: ENC_INIT with 1 to 8 channels starts a new session: the seed 0 at entry 0 of all eight windows, predictors 0;
any other count faults with cause 1 and no encoder field changes. -/
def Obligations.EncInitConfiguresOrFaults : Prop :=
  ∀ (s : State) (ch la : Nat), s.g.halted = false → la < 256 →
    (1 ≤ ch ∧ ch ≤ 8 →
      ∃ t, exec (.encInit ch la) s = .next t ∧ t.e.C.toNat = ch ∧ t.e.L.toNat = la ∧
        (∀ c, c < 8 → (t.e.channel c).pr = ⟨0, 0⟩ ∧ (t.e.channel c).entry 0 = 0) ∧
        t.e.fill = 1 ∧ t.e.pinit = false ∧ t.e.poison = false ∧ t.e.cfg = true ∧
        t.results = s.results ++ [.ok] ∧
        t.g = s.g ∧ t.d = s.d ∧ t.input = s.input ∧ t.decSink = s.decSink ∧ t.encSink = s.encSink ∧ t.run = s.run) ∧
    (¬ (1 ≤ ch ∧ ch ≤ 8) →
      exec (.encInit ch la) s = .next { s with g := ⟨true, 1, cmdWord (.encInit ch la)⟩ })

/-- R181, R262, R264: ENC_DATA whose array count is not `E.C`, or with two lengths that differ, faults with cause 2 after
its length items are taken; no sample is taken and nothing else changes. -/
def Obligations.EncDataArrayMismatchFaults : Prop :=
  ∀ (s : State) (lens : List Item) (rest : List HostMove),
    s.g.halted = false → s.e.cfg = true → s.e.poison = false → s.input = presented lens rest →
    (lens.length ≠ s.e.C.toNat ∨ ∃ a ∈ lens, ∃ b ∈ lens, a ≠ b) →
    exec (.encData lens.length) s =
      .next { s with input := rest, g := ⟨true, 2, cmdWord (.encData lens.length)⟩ }

/-- R181, R183: frames that do not fill the window are only buffered: sample `c` of frame `j` is entry `E.fill + j` of
window `c`, the entries before stay, one reserve request is made and nothing is written. -/
def Obligations.EncDataBuffersFrames : Prop :=
  ∀ (s : State) (n : Nat) (samples : List Item) (rest : List HostMove),
    s.g.halted = false → s.e.Ok → s.e.cfg = true → s.e.poison = false → n < 4294967296 →
    samples.length = n * s.e.C.toNat → s.input = presented (encPayload s.e.C.toNat n samples) rest →
    s.e.fill + n ≤ 65 → EncAnswersOk s.encSink 1 →
    ∃ t, exec (.encData s.e.C.toNat) s = .next t ∧ t.e.fill = s.e.fill + n ∧
      (∀ c, c < s.e.C.toNat →
        (∀ j, j < n →
          (t.e.channel c).entry (s.e.fill + j) = (itemSample (samples.getD (j * s.e.C.toNat + c) 0)).toInt) ∧
        (∀ i, i < s.e.fill → (t.e.channel c).entry i = (s.e.channel c).entry i)) ∧
      (∀ c, c < 8 → (t.e.channel c).pr = (s.e.channel c).pr) ∧
      t.e.cfg = true ∧ t.e.C = s.e.C ∧ t.e.L = s.e.L ∧ t.e.pinit = s.e.pinit ∧ t.e.poison = false ∧
      t.encSink.log = s.encSink.log ++ [.reserve (ceilDiv (s.e.fill - 1 + n) 64 * blockBytes s.e.C.toNat)] ∧
      t.results = s.results ++ [.ok] ∧ t.input = rest ∧
      t.g = s.g ∧ t.d = s.d ∧ t.decSink = s.decSink ∧ t.run = s.run

/-- R181, R184, R193, R197: ENC_DATA of any number of frames, when every request is answered OK, makes one reserve request
and then one write of `36 * E.C` bytes each time the window becomes full. -/
def Obligations.EncDataEmitsABlockPerFullWindow : Prop :=
  ∀ (s : State) (n : Nat) (samples : List Item) (rest : List HostMove),
    s.g.halted = false → s.e.Ok → s.e.cfg = true → s.e.poison = false → n < 4294967296 →
    samples.length = n * s.e.C.toNat → s.input = presented (encPayload s.e.C.toNat n samples) rest →
    EncAnswersOk s.encSink (1 + blocksEmitted s.e.fill n) →
    ∃ (t : State) (blks : List (List Byte)), exec (.encData s.e.C.toNat) s = .next t ∧
      t.encSink.log = s.encSink.log ++
        .reserve (ceilDiv (s.e.fill - 1 + n) 64 * blockBytes s.e.C.toNat) :: blks.map .write ∧
      blks.length = blocksEmitted s.e.fill n ∧ (∀ blk ∈ blks, blk.length = blockBytes s.e.C.toNat) ∧
      t.e.fill + 64 * blocksEmitted s.e.fill n = s.e.fill + n ∧
      t.e.pinit = (s.e.pinit || decide (0 < blocksEmitted s.e.fill n)) ∧
      t.e.cfg = true ∧ t.e.C = s.e.C ∧ t.e.L = s.e.L ∧ t.e.poison = false ∧
      t.results = s.results ++ [.ok] ∧ t.input = rest ∧
      t.g = s.g ∧ t.d = s.d ∧ t.decSink = s.decSink ∧ t.run = s.run

/-- R181, R183, R184, R188, R193: frames that exactly fill the window are packed at once: the one write is the block that
packing the full window gives, and the encoder left is the packed one. Sample `c` of frame `j` is entry `E.fill + j` of
the full window `c`, and the entries before stay. What packing leaves in dead window entries is the model's
choice (log entry 3). -/
def Obligations.EncDataPacksTheFullWindow : Prop :=
  ∀ (s : State) (n : Nat) (samples : List Item) (rest : List HostMove),
    s.g.halted = false → s.e.Ok → s.e.cfg = true → s.e.poison = false →
    samples.length = n * s.e.C.toNat → s.input = presented (encPayload s.e.C.toNat n samples) rest →
    s.e.fill + n = 66 → EncAnswersOk s.encSink 2 →
    ∃ (t : State) (full : Encoder), exec (.encData s.e.C.toNat) s = .next t ∧
      full.fill = 66 ∧ full.C = s.e.C ∧ full.L = s.e.L ∧ full.pinit = s.e.pinit ∧
      (∀ c, c < s.e.C.toNat → (full.channel c).pr = (s.e.channel c).pr ∧
        (∀ j, j < n →
          (full.channel c).entry (s.e.fill + j) = (itemSample (samples.getD (j * s.e.C.toNat + c) 0)).toInt) ∧
        (∀ i, i < s.e.fill → (full.channel c).entry i = (s.e.channel c).entry i)) ∧
      t.encSink.log = s.encSink.log ++
        [.reserve (ceilDiv (s.e.fill - 1 + n) 64 * blockBytes s.e.C.toNat), .write full.packBlock.2] ∧
      t.e = full.packBlock.1 ∧ t.results = s.results ++ [.ok] ∧ t.input = rest ∧
      t.g = s.g ∧ t.d = s.d ∧ t.decSink = s.decSink ∧ t.run = s.run

/-- R66, R198: when every request is answered OK, two ENC_DATA commands leave the encoder and have made the writes that one
ENC_DATA of the joined frames leaves and makes. The second command is run on the state the first leaves, with its own
payload presented. The equality of the encoders takes in the dead window entries, the model's choice (log entry 3). -/
def Obligations.EncDataSplitIsInvisible : Prop :=
  ∀ (s : State) (n m : Nat) (xs ys : List Item) (rest : List HostMove),
    s.g.halted = false → s.e.Ok → s.e.cfg = true → s.e.poison = false → n + m < 4294967296 →
    xs.length = n * s.e.C.toNat → ys.length = m * s.e.C.toNat →
    EncAnswersOk s.encSink (2 + blocksEmitted s.e.fill (n + m)) →
    ∃ t₁ t₂ t,
      exec (.encData s.e.C.toNat) { s with input := presented (encPayload s.e.C.toNat n xs) rest } = .next t₁ ∧
      exec (.encData s.e.C.toNat) { t₁ with input := presented (encPayload s.e.C.toNat m ys) rest } = .next t₂ ∧
      exec (.encData s.e.C.toNat) { s with input := presented (encPayload s.e.C.toNat (n + m) (xs ++ ys)) rest } =
        .next t ∧
      t₂.e = t.e ∧ writesOf t₂.encSink.log = writesOf t.encSink.log

/-- R181, R265, R266: a reserve request answered `ERR(e)` ends ENC_DATA with that error: all samples are dropped, the
encoder is poisoned and otherwise as before, no further request is made. -/
def Obligations.EncDataReserveErrorPoisons : Prop :=
  ∀ (s : State) (n : Nat) (samples : List Item) (rest : List HostMove) (x : SinkError),
    s.g.halted = false → 1 ≤ s.e.C.toNat → s.e.cfg = true → s.e.poison = false → n < 4294967296 →
    samples.length = n * s.e.C.toNat → s.input = presented (encPayload s.e.C.toNat n samples) rest →
    s.encSink.answerAt Config.encAnswer 0 = .err x →
    ∃ t, exec (.encData s.e.C.toNat) s = .next t ∧ t.e = { s.e with poison := true } ∧
      (∃ k, t.encSink.log = s.encSink.log ++ [.reserve k]) ∧
      t.results = s.results ++ [.sinkErr x] ∧ t.input = rest ∧
      t.g = s.g ∧ t.d = s.d ∧ t.decSink = s.decSink ∧ t.run = s.run

/-- R181, R183, R184, R192, R193, R265, R266, R268: when `k` block writes of ENC_DATA are answered OK and the next `ERR(e)`,
for any `k`, the command ends with that error after that write. The writes are the blocks that packing the `k + 1` full
windows of the sample stream gives, each window following the packing before it; the encoder left is the post-shift one
of the last packing, poisoned, with the samples left dropped. What that packing leaves in dead window entries is the
model's choice (log entry 3), and that a poisoned encoder keeps R266's values is log entry 10. -/
def Obligations.EncDataWriteErrorPoisons : Prop :=
  ∀ (s : State) (n : Nat) (samples : List Item) (rest : List HostMove) (k : Nat) (x : SinkError),
    s.g.halted = false → s.e.Ok → s.e.cfg = true → s.e.poison = false → n < 4294967296 →
    samples.length = n * s.e.C.toNat → s.input = presented (encPayload s.e.C.toNat n samples) rest →
    66 + 64 * k ≤ s.e.fill + n →
    EncAnswersOk s.encSink (1 + k) → s.encSink.answerAt Config.encAnswer (1 + k) = .err x →
    ∃ (t : State) (fulls : List Encoder) (last : Encoder), exec (.encData s.e.C.toNat) s = .next t ∧
      fulls.length = k + 1 ∧ PackedInTurn (sampleStream s.e samples) 0 s.e fulls last ∧
      t.e = { last with poison := true } ∧
      t.e.fill = 2 ∧ t.e.pinit = true ∧ t.e.cfg = true ∧ t.e.C = s.e.C ∧ t.e.L = s.e.L ∧
      t.encSink.log = s.encSink.log ++
        .reserve (ceilDiv (s.e.fill - 1 + n) 64 * blockBytes s.e.C.toNat) ::
          fulls.map (fun full => .write full.packBlock.2) ∧
      (∀ full ∈ fulls, full.packBlock.2.length = blockBytes s.e.C.toNat) ∧
      t.results = s.results ++ [.sinkErr x] ∧ t.input = rest ∧
      t.g = s.g ∧ t.d = s.d ∧ t.decSink = s.decSink ∧ t.run = s.run

/-- R185: the decaying average of a window of samples stays below 9363 in magnitude. -/
def Obligations.DecayingAverageIsBounded : Prop :=
  ∀ W : Nat → Int, SampleWindow W → (decayingAverage W).natAbs < 9363

/-- R186: the selected index is the smallest whose midpoint exceeds the average, or 88 when none does. -/
def Obligations.SelectedIndexIsTheSmallest : Prop :=
  ∀ avg : Int, selectIndex avg ≤ 88 ∧
    (∀ j, j < selectIndex avg → ¬ avg < ((stepSize j + stepSize (j + 1)) / 2 : Nat)) ∧
    (selectIndex avg < 88 → avg < ((stepSize (selectIndex avg) + stepSize (selectIndex avg + 1)) / 2 : Nat))

/-- R186, R187, R189, R193: a packed block is `36 * E.C` bytes; channel `c`'s header holds its window's first entry and its
step index, which is the index selected from the window when the predictors were not initialised in the session, and
the current index otherwise; packing leaves the predictors initialised. -/
def Obligations.PackedHeaderHoldsReferenceAndIndex : Prop :=
  ∀ e : Encoder, e.C.toNat ≤ 8 → (∀ c, c < 8 → (e.channel c).pr.InRange) →
    e.packBlock.1.pinit = true ∧ e.packBlock.2.length = blockBytes e.C.toNat ∧
    ∀ c, c < e.C.toNat →
      parseHeader e.packBlock.2 c =
        ⟨(e.channel c).entry 0,
         if e.pinit = true then (e.channel c).pr.idx else selectIndex (decayingAverage (e.channel c).entry)⟩ ∧
      blockByte e.packBlock.2 (4 * c + 3) = 0

/-- R188, R190, R191: encoder and decoder trajectories stay identical: unpacking the block the encoder packed leaves every
channel's running pair equal to the pair the encoder's coding loop left in `E.pred[c]` and `E.idx[c]`. -/
def Obligations.DecoderFollowsTheEncoder : Prop :=
  ∀ e : Encoder, e.C.toNat ≤ 8 → (∀ c, c < 8 → (e.channel c).pr.InRange) →
    (unpackBlock e.C.toNat e.packBlock.2).map Lane.pr =
      (List.range e.C.toNat).map (fun c => (e.packBlock.1.channel c).pr)

/-- R190, R191, R237: the codes of a packed block are, position by position, the codes the search chooses: positions 1 to 64
in order from the pair loaded with the window's first entry and the header's index, each with the depth
`min(E.L, 65 - p)` and each applied by `advance` before the next; the last pair is the one left in the channel. -/
def Obligations.PackedCodesAreTheSearchChoices : Prop :=
  ∀ e : Encoder, e.C.toNat ≤ 8 → (∀ c, c < 8 → (e.channel c).pr.InRange) → ∀ c, c < e.C.toNat →
    let W := (e.channel c).entry
    let start : Predictor := ⟨W 0, (parseHeader e.packBlock.2 c).idx⟩
    let codes := channelCodes e.C.toNat e.packBlock.2 c
    (e.packBlock.1.channel c).pr = codes.foldl advance start ∧
    ∀ p, 1 ≤ p → p ≤ 64 →
      codes.getD (p - 1) 0 =
        (minError W (min e.L.toNat (65 - p)) ((codes.take (p - 1)).foldl advance start) p).2

/-- R192: after a block, entries 64 and 65 of each coded window stand at 0 and 1 and two entries are live. -/
def Obligations.WindowShiftKeepsLastTwoEntries : Prop :=
  ∀ e : Encoder, e.C.toNat ≤ 8 →
    e.packBlock.1.fill = 2 ∧
    ∀ c, c < e.C.toNat →
      (e.packBlock.1.channel c).entry 0 = (e.channel c).entry 64 ∧
      (e.packBlock.1.channel c).entry 1 = (e.channel c).entry 65

/-- R199: a channel's header and codes depend only on its own window and predictor and on `E.L`: the same channel packs to
the same header and codes in any two encoders, whatever their channel counts and other channels. -/
def Obligations.EncodedChannelIsIndependent : Prop :=
  ∀ (e e' : Encoder) (c c' : Nat), e.C.toNat ≤ 8 → e'.C.toNat ≤ 8 → c < e.C.toNat → c' < e'.C.toNat →
    e.L = e'.L → e.pinit = e'.pinit → e.channel c = e'.channel c' →
    parseHeader e.packBlock.2 c = parseHeader e'.packBlock.2 c' ∧
    channelCodes e.C.toNat e.packBlock.2 c = channelCodes e'.C.toNat e'.packBlock.2 c'

/-- R194: ENC_FINISH with a sample buffered pads every window with zeros, makes one write (no reserve) of the block that
packing the padded windows gives, `36 * E.C` bytes, and resets the session. -/
def Obligations.EncFinishEmitsThePaddedBlock : Prop :=
  ∀ s : State, s.g.halted = false → s.e.Ok → s.e.cfg = true → s.e.poison = false → 2 ≤ s.e.fill →
    EncAnswersOk s.encSink 1 →
    ∃ (t : State) (padded : Encoder), exec .encFinish s = .next t ∧
      padded.fill = 66 ∧ padded.C = s.e.C ∧ padded.L = s.e.L ∧ padded.pinit = s.e.pinit ∧
      (∀ c, c < s.e.C.toNat → (padded.channel c).pr = (s.e.channel c).pr ∧
        ∀ i, i < 66 → (padded.channel c).entry i = if i < s.e.fill then (s.e.channel c).entry i else 0) ∧
      t.encSink.log = s.encSink.log ++ [.write padded.packBlock.2] ∧
      padded.packBlock.2.length = blockBytes s.e.C.toNat ∧
      t.e.fill = 1 ∧ t.e.pinit = false ∧ (∀ c, c < 8 → (t.e.channel c).entry 0 = 0) ∧
      t.e.cfg = true ∧ t.e.C = s.e.C ∧ t.e.L = s.e.L ∧ t.e.poison = false ∧
      t.results = s.results ++ [.ok] ∧
      t.g = s.g ∧ t.d = s.d ∧ t.input = s.input ∧ t.decSink = s.decSink ∧ t.run = s.run

/-- R194: ENC_FINISH with only the reference entry live emits nothing and makes no request; the session still resets. -/
def Obligations.EncFinishWithNothingBuffered : Prop :=
  ∀ s : State, s.g.halted = false → s.e.cfg = true → s.e.poison = false → s.e.fill ≤ 1 →
    ∃ t, exec .encFinish s = .next t ∧ t.encSink = s.encSink ∧
      t.e.fill = 1 ∧ t.e.pinit = false ∧ (∀ c, c < 8 → (t.e.channel c).entry 0 = 0) ∧
      t.e.cfg = true ∧ t.e.C = s.e.C ∧ t.e.L = s.e.L ∧ t.e.poison = false ∧
      t.results = s.results ++ [.ok] ∧
      t.g = s.g ∧ t.d = s.d ∧ t.input = s.input ∧ t.decSink = s.decSink ∧ t.run = s.run

/-- R194, R265, R266: when the write of ENC_FINISH is answered `ERR(e)`, the command ends with that error, the encoder is
poisoned and the session is not reset. The one write is the block that packing the padded windows gives, and the encoder
left is the packed one; what packing leaves in dead window entries is the model's choice (log entry 3), and that a
poisoned encoder keeps R266's values is log entry 10. -/
def Obligations.EncFinishWriteErrorPoisons : Prop :=
  ∀ (s : State) (x : SinkError), s.g.halted = false → s.e.cfg = true → s.e.poison = false → 2 ≤ s.e.fill →
    s.encSink.answerAt Config.encAnswer 0 = .err x →
    ∃ (t : State) (padded : Encoder), exec .encFinish s = .next t ∧
      padded.fill = 66 ∧ padded.C = s.e.C ∧ padded.L = s.e.L ∧ padded.pinit = s.e.pinit ∧
      (∀ c, c < s.e.C.toNat → c < 8 → (padded.channel c).pr = (s.e.channel c).pr ∧
        ∀ i, i < 66 → (padded.channel c).entry i = if i < s.e.fill then (s.e.channel c).entry i else 0) ∧
      t.e = { padded.packBlock.1 with poison := true } ∧
      t.e.pinit = true ∧ t.e.fill = 2 ∧ t.e.cfg = true ∧ t.e.C = s.e.C ∧ t.e.L = s.e.L ∧
      t.encSink.log = s.encSink.log ++ [.write padded.packBlock.2] ∧ t.results = s.results ++ [.sinkErr x] ∧
      t.g = s.g ∧ t.d = s.d ∧ t.input = s.input ∧ t.decSink = s.decSink ∧ t.run = s.run

/-- R195: ENC_RESET puts the seed 0 at entry 0 of all eight windows with one live entry and uninitialised predictors;
every other entry, `E.pred`, `E.idx`, `E.C` and `E.L` are kept and no request is made. That
the dead entries are kept is the model's choice (log entry 3: I11 allows any value), and that `E.pred` and `E.idx` are kept
is R195's value, which I12 lets a model leave open (log entry 10). -/
def Obligations.EncResetDropsTheSession : Prop :=
  ∀ s : State, s.g.halted = false → s.e.cfg = true → s.e.poison = false →
    ∃ t, exec .encReset s = .next t ∧
      t.e.fill = 1 ∧ t.e.pinit = false ∧ t.e.cfg = true ∧ t.e.C = s.e.C ∧ t.e.L = s.e.L ∧ t.e.poison = false ∧
      (∀ c, c < 8 → (t.e.channel c).pr = (s.e.channel c).pr ∧
        ∀ i, (t.e.channel c).entry i = if i = 0 then 0 else (s.e.channel c).entry i) ∧
      t.results = s.results ++ [.ok] ∧ t.encSink = s.encSink ∧
      t.g = s.g ∧ t.d = s.d ∧ t.input = s.input ∧ t.decSink = s.decSink ∧ t.run = s.run

/-! ## The search -/

/-- R236: pruning is exact: the search gives the pair of the search with the prune removed. -/
def Obligations.PruningNeverChangesTheResult : Prop :=
  ∀ (W : Nat → Int) (d : Nat) (pr : Predictor) (p : Nat), minError W d pr p = bruteForce W d pr p

/-- R234, R235: with lookahead, the error is the least total over all sixteen codes and the code reaches it; among equal
totals the first guess wins, and otherwise the smallest code value. -/
def Obligations.SearchReturnsTheLeastTotal : Prop :=
  ∀ (W : Nat → Int) (d : Nat) (pr : Predictor) (p : Nat),
    let g := firstGuess pr (W p)
    let r := minError W (d + 1) pr p
    r.1 = totalError W d pr p r.2 ∧
    (∀ k, r.1 ≤ totalError W d pr p k) ∧
    (totalError W d pr p g = r.1 → r.2 = g) ∧
    (r.2 ≠ g → ∀ k, totalError W d pr p k = r.1 → r.2.toNat ≤ k.toNat)

/-- R231, R238: on samples, one error is at most 65535 squared and a sum over at most 65 levels is below 2^39. -/
def Obligations.SearchErrorsAreBounded : Prop :=
  ∀ (W : Nat → Int) (d : Nat) (pr : Predictor) (p : Nat), SampleWindow W →
    (∀ k, codeError pr (W p) k ≤ 4294836225) ∧ (d ≤ 64 → (minError W d pr p).1 < 549755813888)

/-- R237: the search reads the window from its position to its depth and nowhere else, and a lookahead of 64 or more codes a
channel as 64 does. -/
def Obligations.LookaheadIsCapped : Prop :=
  (∀ (W W' : Nat → Int) (d : Nat) (pr : Predictor) (p : Nat),
    (∀ i, p ≤ i → i ≤ p + d → W i = W' i) → minError W d pr p = minError W' d pr p) ∧
  (∀ (ch : Channel) (la : Nat), 64 ≤ la → ch.coded la = ch.coded 64)

/-! ## The whole machine -/

/-- R262: faults are precise: a command that halts the core has changed nothing but `G` and the items it had taken, records
a cause from 1 to 5 and its own word, gives no result and makes no request. -/
def Obligations.FaultsArePrecise : Prop :=
  ∀ (i : Instr) (s t : State), exec i s = .next t → t.g.halted = true → isCommand i = true →
    (∃ cause : Cause, t.g = ⟨true, cause.code, cmdWord i⟩) ∧
    t.d = s.d ∧ t.e = s.e ∧ t.decSink = s.decSink ∧ t.encSink = s.encSink ∧ t.results = s.results ∧ t.run = s.run

/-- R20, R262: the word recorded in `G.fault_cmd` is the word the step took. -/
def Obligations.FaultRecordsTheWordTaken : Prop :=
  ∀ (s t : State) (w : Item) (rest : List HostMove), s.g.halted = false → s.input = .item w :: rest →
    step s = .next t → t.g.halted = true → t.g.faultCmd = w

/-- R263, R290: the only step out of the halted state is a hardware reset. -/
def Obligations.OnlyResetLeavesTheHaltedState : Prop :=
  ∀ s t : State, step s = .next t → s.g.halted = true → t.g.halted = false → ∃ rest, s.input = .reset :: rest

/-- R27, R30, R34, R35, R267: the channel counts, the lookahead and the configured bits change, and the poison bits clear,
only by that engine's INIT command or by hardware reset. -/
def Obligations.ConfigurationChangesOnlyByInit : Prop :=
  ∀ s t : State, step s = .next t →
    (t.d.C ≠ s.d.C ∨ t.d.cfg ≠ s.d.cfg ∨ (s.d.poison = true ∧ t.d.poison = false) →
      (∃ rest, s.input = .reset :: rest) ∨
      (∃ w rest ch, s.input = .item w :: rest ∧ decode (.cmd w) = .ok (.decInit ch))) ∧
    (t.e.C ≠ s.e.C ∨ t.e.L ≠ s.e.L ∨ t.e.cfg ≠ s.e.cfg ∨ (s.e.poison = true ∧ t.e.poison = false) →
      (∃ rest, s.input = .reset :: rest) ∨
      (∃ w rest ch la, s.input = .item w :: rest ∧ decode (.cmd w) = .ok (.encInit ch la)))

/-- R40, R268: a command that answers a next state has either halted the core, with no result, or given exactly one. -/
def Obligations.OneResultPerCommand : Prop :=
  ∀ (i : Instr) (s t : State), isCommand i = true → exec i s = .next t →
    (t.g.halted = true ∧ t.results = s.results) ∨ (t.g = s.g ∧ ∃ r, t.results = s.results ++ [r])

/-- R2, R69, R274: the engines do not interact: a decoder command leaves the encoder and its sink as they were, an encoder
command the decoder and its sink, and a code run on its own everything but its pair (the model's own move and pair, log
entry 2). -/
def Obligations.EnginesDoNotInteract : Prop :=
  ∀ (i : Instr) (s t : State), exec i s = .next t →
    (isDecCommand i = true → t.e = s.e ∧ t.encSink = s.encSink ∧ t.run = s.run) ∧
    (isEncCommand i = true → t.d = s.d ∧ t.decSink = s.decSink ∧ t.run = s.run) ∧
    (isCommand i = false → t = { s with run := t.run })

/-- R68, R300: no step takes back a request made or a result given. -/
def Obligations.RequestsAndResultsOnlyGrow : Prop :=
  ∀ s t : State, step s = .next t →
    s.results <+: t.results ∧ s.decSink.log <+: t.decSink.log ∧ s.encSink.log <+: t.encSink.log

/-- R87, R295: a command whose payload the host does not supply does not complete: too few bytes for DEC_DATA, too few length
items for ENC_DATA, or too few samples after lengths that pass the check, whether the host's moves end there or go on
with a reset or a code. That the step then answers the fault `payloadMissing` is the model's choice (log entry 9): R295
calls the run stuck, and gives the host no such move. -/
def Obligations.MissingPayloadIsStuck : Prop :=
  ∀ (s : State) (items : List Item) (rest : List HostMove), s.g.halted = false → CutOff rest →
    s.input = presented items rest →
    (s.d.cfg = true → s.d.poison = false →
      ∀ n, items.length < n → exec (.decData n) s = .fault .payloadMissing) ∧
    (s.e.cfg = true → s.e.poison = false →
      (∀ n, items.length < n → exec (.encData n) s = .fault .payloadMissing) ∧
      (∀ n samples, items = encPayload s.e.C.toNat n samples → n < 4294967296 →
        samples.length < n * s.e.C.toNat → exec (.encData s.e.C.toNat) s = .fault .payloadMissing))

/-- The invariant between commands holds at reset. -/
def Obligations.InvariantHoldsAtReset : Prop := State.reset.Inv

/-- R29, R31, R33, R41, R42, R61, R134: every step that answers a next state keeps the invariant between commands. -/
def Obligations.EveryStepKeepsTheInvariant : Prop :=
  ∀ s t : State, s.Inv → step s = .next t → t.Inv
end

