-- ==== Sys2Proof/Laws/State.lean ====
section
/-! SUPPORT. Laws/State: what each named update of the state leaves in each field. -/

namespace Sys2Proof.Machine

@[simp] theorem raiseFault_g (cause : Cause) (w : Item) (s : State) : (raiseFault cause w s).g = ⟨true, cause.code, w⟩ := rfl
@[simp] theorem raiseFault_d (cause : Cause) (w : Item) (s : State) : (raiseFault cause w s).d = s.d := rfl
@[simp] theorem raiseFault_e (cause : Cause) (w : Item) (s : State) : (raiseFault cause w s).e = s.e := rfl
@[simp] theorem raiseFault_input (cause : Cause) (w : Item) (s : State) : (raiseFault cause w s).input = s.input := rfl
@[simp] theorem raiseFault_results (cause : Cause) (w : Item) (s : State) : (raiseFault cause w s).results = s.results := rfl
@[simp] theorem raiseFault_decSink (cause : Cause) (w : Item) (s : State) : (raiseFault cause w s).decSink = s.decSink := rfl
@[simp] theorem raiseFault_encSink (cause : Cause) (w : Item) (s : State) : (raiseFault cause w s).encSink = s.encSink := rfl
@[simp] theorem raiseFault_run (cause : Cause) (w : Item) (s : State) : (raiseFault cause w s).run = s.run := rfl

@[simp] theorem complete_g (r : Result) (s : State) : (complete r s).g = s.g := rfl
@[simp] theorem complete_d (r : Result) (s : State) : (complete r s).d = s.d := rfl
@[simp] theorem complete_e (r : Result) (s : State) : (complete r s).e = s.e := rfl
@[simp] theorem complete_input (r : Result) (s : State) : (complete r s).input = s.input := rfl
@[simp] theorem complete_results (r : Result) (s : State) : (complete r s).results = s.results ++ [r] := rfl
@[simp] theorem complete_decSink (r : Result) (s : State) : (complete r s).decSink = s.decSink := rfl
@[simp] theorem complete_encSink (r : Result) (s : State) : (complete r s).encSink = s.encSink := rfl
@[simp] theorem complete_run (r : Result) (s : State) : (complete r s).run = s.run := rfl

@[simp] theorem hardwareReset_g (s : State) : (hardwareReset s).g = Global.zero := rfl
@[simp] theorem hardwareReset_d (s : State) : (hardwareReset s).d = Decoder.zero := rfl
@[simp] theorem hardwareReset_e (s : State) : (hardwareReset s).e = Encoder.zero := rfl
@[simp] theorem hardwareReset_input (s : State) : (hardwareReset s).input = s.input := rfl
@[simp] theorem hardwareReset_results (s : State) : (hardwareReset s).results = s.results := rfl
@[simp] theorem hardwareReset_decSink (s : State) : (hardwareReset s).decSink = s.decSink := rfl
@[simp] theorem hardwareReset_encSink (s : State) : (hardwareReset s).encSink = s.encSink := rfl
@[simp] theorem hardwareReset_run (s : State) : (hardwareReset s).run = Predictor.zero := rfl

@[simp] theorem runCode_g (code : Code) (s : State) : (runCode code s).g = s.g := rfl
@[simp] theorem runCode_d (code : Code) (s : State) : (runCode code s).d = s.d := rfl
@[simp] theorem runCode_e (code : Code) (s : State) : (runCode code s).e = s.e := rfl
@[simp] theorem runCode_input (code : Code) (s : State) : (runCode code s).input = s.input := rfl
@[simp] theorem runCode_results (code : Code) (s : State) : (runCode code s).results = s.results := rfl
@[simp] theorem runCode_decSink (code : Code) (s : State) : (runCode code s).decSink = s.decSink := rfl
@[simp] theorem runCode_encSink (code : Code) (s : State) : (runCode code s).encSink = s.encSink := rfl
@[simp] theorem runCode_run (code : Code) (s : State) : (runCode code s).run = advance s.run code := rfl

@[simp] theorem placeWord_g (nbits w : Nat) (s : State) : (placeWord nbits w s).g = s.g := rfl
@[simp] theorem placeWord_d (nbits w : Nat) (s : State) : (placeWord nbits w s).d = s.d := rfl
@[simp] theorem placeWord_e (nbits w : Nat) (s : State) : (placeWord nbits w s).e = s.e := rfl
@[simp] theorem placeWord_input (nbits w : Nat) (s : State) : (placeWord nbits w s).input = (if nbits ≤ 8 then HostMove.code (BitVec.ofNat 4 w) else HostMove.item (BitVec.ofNat 32 w)) :: s.input := rfl
@[simp] theorem placeWord_results (nbits w : Nat) (s : State) : (placeWord nbits w s).results = s.results := rfl
@[simp] theorem placeWord_decSink (nbits w : Nat) (s : State) : (placeWord nbits w s).decSink = s.decSink := rfl
@[simp] theorem placeWord_encSink (nbits w : Nat) (s : State) : (placeWord nbits w s).encSink = s.encSink := rfl
@[simp] theorem placeWord_run (nbits w : Nat) (s : State) : (placeWord nbits w s).run = s.run := rfl

@[simp] theorem resetSession_cfg (e : Encoder) : e.resetSession.cfg = e.cfg := rfl
@[simp] theorem resetSession_C (e : Encoder) : e.resetSession.C = e.C := rfl
@[simp] theorem resetSession_L (e : Encoder) : e.resetSession.L = e.L := rfl
@[simp] theorem resetSession_fill (e : Encoder) : e.resetSession.fill = 1 := rfl
@[simp] theorem resetSession_pinit (e : Encoder) : e.resetSession.pinit = false := rfl
@[simp] theorem resetSession_poison (e : Encoder) : e.resetSession.poison = e.poison := rfl

@[simp] theorem pushFrame_cfg (e : Encoder) (f : List Sample) : (e.pushFrame f).cfg = e.cfg := rfl
@[simp] theorem pushFrame_C (e : Encoder) (f : List Sample) : (e.pushFrame f).C = e.C := rfl
@[simp] theorem pushFrame_L (e : Encoder) (f : List Sample) : (e.pushFrame f).L = e.L := rfl
@[simp] theorem pushFrame_fill (e : Encoder) (f : List Sample) : (e.pushFrame f).fill = e.fill + 1 := rfl
@[simp] theorem pushFrame_pinit (e : Encoder) (f : List Sample) : (e.pushFrame f).pinit = e.pinit := rfl
@[simp] theorem pushFrame_poison (e : Encoder) (f : List Sample) : (e.pushFrame f).poison = e.poison := rfl

@[simp] theorem pad_cfg (e : Encoder) : e.pad.cfg = e.cfg := rfl
@[simp] theorem pad_C (e : Encoder) : e.pad.C = e.C := rfl
@[simp] theorem pad_L (e : Encoder) : e.pad.L = e.L := rfl
@[simp] theorem pad_fill (e : Encoder) : e.pad.fill = 66 := rfl
@[simp] theorem pad_pinit (e : Encoder) : e.pad.pinit = e.pinit := rfl
@[simp] theorem pad_poison (e : Encoder) : e.pad.poison = e.poison := rfl

@[simp] theorem push_cfg (d : Decoder) (b : Byte) : (d.push b).cfg = d.cfg := rfl
@[simp] theorem push_C (d : Decoder) (b : Byte) : (d.push b).C = d.C := rfl
@[simp] theorem push_len (d : Decoder) (b : Byte) : (d.push b).len = d.len + 1 := rfl
@[simp] theorem push_poison (d : Decoder) (b : Byte) : (d.push b).poison = d.poison := rfl

@[simp] theorem initPredictors_cfg (e : Encoder) : e.initPredictors.cfg = e.cfg := by
  unfold Encoder.initPredictors; split <;> rfl
@[simp] theorem initPredictors_C (e : Encoder) : e.initPredictors.C = e.C := by
  unfold Encoder.initPredictors; split <;> rfl
@[simp] theorem initPredictors_L (e : Encoder) : e.initPredictors.L = e.L := by
  unfold Encoder.initPredictors; split <;> rfl
@[simp] theorem initPredictors_fill (e : Encoder) : e.initPredictors.fill = e.fill := by
  unfold Encoder.initPredictors; split <;> rfl
@[simp] theorem initPredictors_pinit (e : Encoder) : e.initPredictors.pinit = true := by
  unfold Encoder.initPredictors; split <;> first | assumption | rfl
@[simp] theorem initPredictors_poison (e : Encoder) : e.initPredictors.poison = e.poison := by
  unfold Encoder.initPredictors; split <;> rfl

@[simp] theorem packBlock_cfg (e : Encoder) : e.packBlock.1.cfg = e.cfg := by simp [Encoder.packBlock]
@[simp] theorem packBlock_C (e : Encoder) : e.packBlock.1.C = e.C := by simp [Encoder.packBlock]
@[simp] theorem packBlock_L (e : Encoder) : e.packBlock.1.L = e.L := by simp [Encoder.packBlock]
@[simp] theorem packBlock_fill (e : Encoder) : e.packBlock.1.fill = 2 := rfl
@[simp] theorem packBlock_pinit (e : Encoder) : e.packBlock.1.pinit = true := by simp [Encoder.packBlock]
@[simp] theorem packBlock_poison (e : Encoder) : e.packBlock.1.poison = e.poison := by simp [Encoder.packBlock]

end Sys2Proof.Machine
end

