-- ==== Sys2Proof/Laws/Channels.lean ====
section
/-! SUPPORT. Laws/Channels: reading a channel or a window entry after an update. -/

namespace Sys2Proof.Machine

theorem channelOf_set (v : Vector Channel 8) (i c : Nat) (x : Channel) (hc : c < 8) :
    channelOf (v.setIfInBounds i x) c = if c = i then x else channelOf v c := by
  unfold channelOf
  by_cases h : c = i
  · subst h; simp [hc]
  · have h' : i ≠ c := fun e => h e.symm
    simp [h, h']

theorem updateChannels_zero (f : Nat → Channel → Channel) (v : Vector Channel 8) : updateChannels f 0 v = v := rfl

theorem updateChannels_succ (f : Nat → Channel → Channel) (n : Nat) (v : Vector Channel 8) :
    updateChannels f (n + 1) v =
      (updateChannels f n v).setIfInBounds n (f n (channelOf (updateChannels f n v) n)) := rfl

/-- `updateChannels f n` changes channels 0 to `n - 1`, each by its own `f c`, and no other. -/
theorem channelOf_updateChannels (f : Nat → Channel → Channel) (n : Nat) (v : Vector Channel 8) (c : Nat)
    (hc : c < 8) : channelOf (updateChannels f n v) c = if c < n then f c (channelOf v c) else channelOf v c := by
  induction n with
  | zero => simp [updateChannels_zero]
  | succ n ih =>
    simp only [updateChannels_succ, channelOf_set _ _ _ _ hc]
    by_cases h : c = n
    · subst h; simp [ih]
    · by_cases h2 : c < n
      · simp [h, ih, h2, Nat.lt_succ_of_lt h2]
      · have h3 : ¬ c < n + 1 := by omega
        simp [h, ih, h2, h3]

/-- `updateAll f` changes all eight channels by `f`. -/
theorem channelOf_updateAll (f : Channel → Channel) (v : Vector Channel 8) (c : Nat) (hc : c < 8) :
    channelOf (updateAll f v) c = f (channelOf v c) := by
  unfold updateAll
  rw [channelOf_updateChannels _ _ _ _ hc, if_pos hc]

/-- A window entry after one entry was written. -/
theorem entry_setEntry (ch : Channel) (i j : Nat) (v : Sample) :
    (ch.setEntry i v).entry j = if j = i ∧ i < 66 then v.toInt else ch.entry j := by
  unfold Channel.entry Channel.setEntry
  by_cases h : j = i
  · subst h
    by_cases h2 : j < 66
    · simp [h2]
    · simp [h2]
  · have h' : i ≠ j := fun e => h e.symm
    simp [h, h']

@[simp] theorem setEntry_pr (ch : Channel) (i : Nat) (v : Sample) : (ch.setEntry i v).pr = ch.pr := rfl
@[simp] theorem shift_pr (ch : Channel) : ch.shift.pr = ch.pr := rfl
@[simp] theorem packed_pr (ch : Channel) (la : Nat) : (ch.packed la).pr = (ch.coded la).1 := rfl
@[simp] theorem packed_win (ch : Channel) (la : Nat) : (ch.packed la).win = ch.shift.win := rfl
@[simp] theorem seed_win (ch : Channel) : ch.seed.win = ch.win := rfl

/-- A window's entries depend on the window alone. -/
theorem entry_of_win {a b : Channel} (h : a.win = b.win) (i : Nat) : a.entry i = b.entry i := by
  unfold Channel.entry; rw [h]

@[simp] theorem packed_entry (ch : Channel) (la i : Nat) : (ch.packed la).entry i = ch.shift.entry i :=
  entry_of_win (packed_win ch la) i

@[simp] theorem seed_entry (ch : Channel) (i : Nat) : ch.seed.entry i = ch.entry i :=
  entry_of_win (seed_win ch) i

theorem codeSamples_zero (la : Nat) (W : Nat → Int) (p : Nat) (pr : Predictor) :
    codeSamples la W 0 p pr = (pr, []) := rfl

theorem codeSamples_succ (la : Nat) (W : Nat → Int) (n p : Nat) (pr : Predictor) :
    codeSamples la W (n + 1) p pr =
      ((codeSamples la W n (p + 1) (advance pr (minError W (lookaheadDepth la p) pr p).2)).1,
       (minError W (lookaheadDepth la p) pr p).2 ::
         (codeSamples la W n (p + 1) (advance pr (minError W (lookaheadDepth la p) pr p).2)).2) := rfl

/-- The window after the shift (R192). -/
theorem shift_entry (ch : Channel) (j : Nat) :
    ch.shift.entry j = if j = 0 then ch.entry 64 else if j = 1 then ch.entry 65 else ch.entry j := by
  unfold Channel.shift
  rw [entry_setEntry, entry_setEntry]
  by_cases h0 : j = 0
  · subst h0; simp [Channel.entry]
  · by_cases h1 : j = 1
    · subst h1; simp [Channel.entry]
    · simp [h0, h1]

end Sys2Proof.Machine
end

