-- ==== Sys2Proof/Laws/Ports.lean ====
section
/-! SUPPORT. Laws/Ports: what asking a sink and taking payload items can do. -/

namespace Sys2Proof.Machine

section
variable {α : Type} (free : Nat → Answer) (r : Request α) (k : SinkPort α)

/-- Every request is logged, whatever the answer. -/
@[simp] theorem ask_log : (k.ask free r).1.log = k.log ++ [r] := by
  unfold SinkPort.ask; split <;> rfl

/-- The answer given is the next one. -/
theorem ask_answer : (k.ask free r).2 = k.answerAt free 0 := by
  unfold SinkPort.ask SinkPort.answerAt
  split <;> rename_i h <;> simp [h]

/-- After one request the answers move up by one. -/
theorem ask_answerAt (i : Nat) : (k.ask free r).1.answerAt free i = k.answerAt free (i + 1) := by
  unfold SinkPort.ask SinkPort.answerAt
  split
  · rename_i a rest h
    simp [h]
  · rename_i h
    simp [h, Nat.add_assoc, Nat.add_comm 1 i]

/-- The state of a sink's answers after a request does not depend on what was asked. -/
theorem ask_answers_draws (r' : Request α) :
    (k.ask free r).1.answers = (k.ask free r').1.answers ∧ (k.ask free r).1.draws = (k.ask free r').1.draws := by
  unfold SinkPort.ask; split <;> exact ⟨rfl, rfl⟩

end

@[simp] theorem decAsk_log (r : Request (List (List Sample))) (k : DecSink) : (k.ask r).1.log = k.log ++ [r] :=
  ask_log _ _ _

@[simp] theorem encAsk_log (r : Request (List Byte)) (k : EncSink) : (EncSink.ask r k).1.log = k.log ++ [r] :=
  ask_log _ _ _

/-- Items that stand at the front of the port are taken, in order, and no more. -/
theorem takeItems_of_items (xs : List Item) (rest : List HostMove) :
    takeItems xs.length (xs.map HostMove.item ++ rest) = some (xs, rest) := by
  induction xs with
  | nil => rfl
  | cons x xs ih => simp [takeItems, ih]

/-- What is taken stood at the front of the port. -/
theorem takeItems_eq_some {n : Nat} {ms : List HostMove} {xs : List Item} {rest : List HostMove}
    (h : takeItems n ms = some (xs, rest)) : xs.length = n ∧ ms = xs.map HostMove.item ++ rest := by
  induction n generalizing ms xs rest with
  | zero => simp [takeItems] at h; obtain ⟨rfl, rfl⟩ := h; simp
  | succ n ih =>
    match ms with
    | [] => simp [takeItems] at h
    | .code _ :: _ => simp [takeItems] at h
    | .reset :: _ => simp [takeItems] at h
    | .item w :: ms =>
      simp only [takeItems, Option.map_eq_some_iff] at h
      obtain ⟨⟨ys, rest'⟩, h1, h2⟩ := h
      obtain ⟨rfl, rfl⟩ := Prod.mk.inj h2
      obtain ⟨h3, h4⟩ := ih h1
      exact ⟨by simp [h3], by simp [h4]⟩

end Sys2Proof.Machine
end

