-- ==== Sys2Proof/Laws/Engines.lean ====
section
/-! SUPPORT. Laws/Engines: what the loops of the two engines keep, and what packing a block leaves in a channel. -/

namespace Sys2Proof.Machine

/-- The byte loop changes neither the configuration nor the channel count of the decoder. -/
theorem decodeBytes_config (bs : List Byte) (d : Decoder) (k : DecSink) :
    (decodeBytes bs d k).1.cfg = d.cfg ∧ (decodeBytes bs d k).1.C = d.C := by
  induction bs generalizing d k with
  | nil => exact ⟨rfl, rfl⟩
  | cons b bs ih =>
    unfold decodeBytes
    dsimp only
    split
    · split
      · exact ⟨rfl, rfl⟩
      · exact ih _ _
    · exact ih _ _

/-- The write request the next byte leads to when it completes a block. -/
theorem decodeBytes_cons (b : Byte) (bs : List Byte) (d : Decoder) (k : DecSink) :
    (d.len + 1 ≠ blockBytes d.C.toNat ∧ decodeBytes (b :: bs) d k = decodeBytes bs (d.push b) k) ∨
    (d.len + 1 = blockBytes d.C.toNat ∧
      (k.ask (.write (decodeBlock d.C.toNat (d.push b).block))).2 = .ok ∧
      decodeBytes (b :: bs) d k =
        decodeBytes bs { d.push b with len := 0 } (k.ask (.write (decodeBlock d.C.toNat (d.push b).block))).1) ∨
    (d.len + 1 = blockBytes d.C.toNat ∧
      ∃ x, (k.ask (.write (decodeBlock d.C.toNat (d.push b).block))).2 = .err x ∧
        decodeBytes (b :: bs) d k =
          ({ d.push b with poison := true }, (k.ask (.write (decodeBlock d.C.toNat (d.push b).block))).1,
            .sinkErr x)) := by
  have heq : decodeBytes (b :: bs) d k =
      if d.len + 1 = blockBytes d.C.toNat then
        match DecSink.ask (.write (decodeBlock d.C.toNat (d.push b).block)) k with
        | (k', .err e) => ({ d.push b with poison := true }, k', .sinkErr e)
        | (k', .ok) => decodeBytes bs { d.push b with len := 0 } k'
      else decodeBytes bs (d.push b) k := by
    rw [decodeBytes]
    rfl
  rw [heq]
  rcases hask : DecSink.ask (.write (decodeBlock d.C.toNat (d.push b).block)) k with ⟨k', a⟩
  by_cases h : d.len + 1 = blockBytes d.C.toNat
  · simp only [h, if_true]
    cases a with
    | ok => exact .inr (.inl ⟨trivial, rfl, rfl⟩)
    | err x => exact .inr (.inr ⟨trivial, x, rfl, rfl⟩)
  · simp only [if_neg h]
    exact .inl ⟨h, trivial⟩

/-- A channel after a block was packed: its part coded and its window shifted if it takes part, else as it was. -/
theorem packBlock_channel (e : Encoder) (c : Nat) (hc : c < 8) :
    e.packBlock.1.channel c =
      if c < e.C.toNat then (e.initPredictors.channel c).packed e.L.toNat else e.channel c := by
  unfold Encoder.packBlock Encoder.channel
  simp only [initPredictors_C, initPredictors_L]
  rw [channelOf_updateChannels _ _ _ _ hc]
  split
  · rfl
  · rename_i h
    unfold Encoder.initPredictors
    split
    · rfl
    · simp only []
      rw [channelOf_updateChannels _ _ _ _ hc, if_neg h]

/-- A channel after predictor initialisation (R186, R187). -/
theorem initPredictors_channel (e : Encoder) (c : Nat) (hc : c < 8) :
    e.initPredictors.channel c =
      if e.pinit = false ∧ c < e.C.toNat then (e.channel c).seed else e.channel c := by
  unfold Encoder.initPredictors Encoder.channel
  by_cases hp : e.pinit = true
  · simp [hp]
  · simp only [hp]
    simp only [Bool.not_eq_true] at hp
    rw [if_neg (by simp), channelOf_updateChannels _ _ _ _ hc]
    simp

/-- Emitting a block: the packed encoder, poisoned if the one write fails (R193, R266). -/
theorem emitBlock_cases (e : Encoder) (k : EncSink) :
    ((EncSink.ask (.write e.packBlock.2) k).2 = .ok ∧
      e.emitBlock k = (e.packBlock.1, (EncSink.ask (.write e.packBlock.2) k).1, .ok)) ∨
    (∃ x, (EncSink.ask (.write e.packBlock.2) k).2 = .err x ∧
      e.emitBlock k =
        ({ e.packBlock.1 with poison := true }, (EncSink.ask (.write e.packBlock.2) k).1, .sinkErr x)) := by
  unfold Encoder.emitBlock
  dsimp only
  split
  · rename_i k' x heq
    exact .inr ⟨x, by rw [heq], by rw [heq]⟩
  · rename_i k' heq
    exact .inl ⟨by rw [heq], by rw [heq]⟩

/-- The three ways the frame loop goes on with its next frame (R183, R184, R265). -/
theorem encodeFrames_cons (f : List Sample) (fs : List (List Sample)) (e : Encoder) (k : EncSink) :
    (e.fill + 1 ≠ 66 ∧ encodeFrames (f :: fs) e k = encodeFrames fs (e.pushFrame f) k) ∨
    (e.fill + 1 = 66 ∧
      (EncSink.ask (.write (e.pushFrame f).packBlock.2) k).2 = .ok ∧
      encodeFrames (f :: fs) e k =
        encodeFrames fs (e.pushFrame f).packBlock.1 (EncSink.ask (.write (e.pushFrame f).packBlock.2) k).1) ∨
    (e.fill + 1 = 66 ∧
      ∃ x, (EncSink.ask (.write (e.pushFrame f).packBlock.2) k).2 = .err x ∧
        encodeFrames (f :: fs) e k =
          ({ (e.pushFrame f).packBlock.1 with poison := true },
            (EncSink.ask (.write (e.pushFrame f).packBlock.2) k).1, .sinkErr x)) := by
  have heq : encodeFrames (f :: fs) e k =
      if e.fill + 1 = 66 then
        match (e.pushFrame f).emitBlock k with
        | (e'', k', .sinkErr x) => (e'', k', .sinkErr x)
        | (e'', k', .ok) => encodeFrames fs e'' k'
      else encodeFrames fs (e.pushFrame f) k := by
    rw [encodeFrames]
    rfl
  rw [heq]
  by_cases h : e.fill + 1 = 66
  · simp only [if_pos h]
    rcases emitBlock_cases (e.pushFrame f) k with ⟨h1, h2⟩ | ⟨x, h1, h2⟩
    · exact .inr (.inl ⟨h, h1, by rw [h2]⟩)
    · exact .inr (.inr ⟨h, x, h1, by rw [h2]⟩)
  · simp only [if_neg h]
    exact .inl ⟨h, trivial⟩

/-- The frame loop changes neither the configuration nor the channel count nor the lookahead of the encoder. -/
theorem encodeFrames_config (fs : List (List Sample)) (e : Encoder) (k : EncSink) :
    (encodeFrames fs e k).1.cfg = e.cfg ∧ (encodeFrames fs e k).1.C = e.C ∧ (encodeFrames fs e k).1.L = e.L := by
  induction fs generalizing e k with
  | nil => exact ⟨rfl, rfl, rfl⟩
  | cons f fs ih =>
    unfold encodeFrames
    dsimp only
    split
    · rcases emitBlock_cases (e.pushFrame f) k with ⟨_, h⟩ | ⟨x, _, h⟩
      · rw [h]
        refine ⟨(ih _ _).1.trans ?_, (ih _ _).2.1.trans ?_, (ih _ _).2.2.trans ?_⟩ <;> simp
      · rw [h]; simp
    · obtain ⟨h1, h2, h3⟩ := ih (e.pushFrame f) k
      exact ⟨h1, h2, h3⟩

end Sys2Proof.Machine
end

