-- ==== Sys2Proof/Laws/Guard.lean ====
section
/-! SUPPORT. Laws/Guard: what a guarded command can do, and what a step can do. -/

namespace Sys2Proof.Machine

/-- A guarded command that answers a next state ran on a core that is not halted, and either took the fault of its
failed check or had its own effect. -/
theorem guarded_next {i : Instr} {check : Option Cause} {s t : State}
    {body : State → Host.Outcome State Fault Refusal} (h : guarded i check s body = .next t) :
    s.g.halted = false ∧
      ((∃ cause, check = some cause ∧ t = raiseFault cause (cmdWord i) s) ∨ (check = none ∧ body s = .next t)) := by
  unfold guarded at h
  split at h
  · cases h
  · rename_i hh
    refine ⟨by simpa using hh, ?_⟩
    split at h
    · rename_i cause
      injection h with h
      exact .inl ⟨cause, rfl, h.symm⟩
    · exact .inr ⟨rfl, h⟩

/-- On a core that is not halted, a passed check leaves the command's own effect. -/
theorem guarded_pass {i : Instr} {s : State} {body : State → Host.Outcome State Fault Refusal}
    (h : s.g.halted = false) : guarded i none s body = body s := by
  simp [guarded, h]

/-- On a core that is not halted, a failed check takes its fault. -/
theorem guarded_fault {i : Instr} {cause : Cause} {s : State} {body : State → Host.Outcome State Fault Refusal}
    (h : s.g.halted = false) :
    guarded i (some cause) s body = .next (raiseFault cause (cmdWord i) s) := by
  simp [guarded, h]

/-- A halted core refuses every command (R263). -/
theorem guarded_halted {i : Instr} {check : Option Cause} {s : State}
    {body : State → Host.Outcome State Fault Refusal} (h : s.g.halted = true) :
    guarded i check s body = .fault .halted := by
  simp [guarded, h]

/-- Everything a step that answers a next state can have done: a hardware reset, the host's withdrawal from a halted core,
idling, an illegal word's fault, an instruction. -/
theorem step_next {s t : State} (h : step s = .next t) :
    (∃ rest, s.input = .reset :: rest ∧ t = hardwareReset { s with input := rest }) ∨
    (∃ m rest, s.input = m :: rest ∧ m ≠ .reset ∧ s.g.halted = true ∧ t = { s with input := rest }) ∨
    (s.input = [] ∧ s.g.halted = false ∧ t = s) ∨
    (∃ w rest err, s.input = .item w :: rest ∧ s.g.halted = false ∧ decode (.cmd w) = .error err ∧
      t = raiseFault .illegalCmd w { s with input := rest }) ∨
    (∃ w rest i, s.input = .item w :: rest ∧ s.g.halted = false ∧ decode (.cmd w) = .ok i ∧
      exec i { s with input := rest } = .next t) ∨
    (∃ c rest, s.input = .code c :: rest ∧ s.g.halted = false ∧
      exec (decodeCode c) { s with input := rest } = .next t) := by
  unfold step fetch at h
  split at h
  · rename_i i u hf
    split at hf
    · cases hf
    · rename_i w rest hi
      split at hf
      · cases hf
      · rename_i hh
        unfold takeWord at hf
        split at hf
        · rename_i j hd
          injection hf with h1 h2
          subst h1 h2
          exact .inr (.inr (.inr (.inr (.inl ⟨w, rest, _, hi, by simpa using hh, hd, h⟩))))
        · cases hf
    · rename_i c rest hi
      split at hf
      · cases hf
      · rename_i hh
        injection hf with h1 h2
        subst h1 h2
        exact .inr (.inr (.inr (.inr (.inr ⟨c, rest, hi, by simpa using hh, h⟩))))
    · split at hf <;> cases hf
  · rename_i u hf
    injection h with h
    subst h
    split at hf
    · rename_i rest hi
      injection hf with h1
      exact .inl ⟨rest, hi, h1.symm⟩
    · rename_i w rest hi
      split at hf
      · rename_i hh
        injection hf with h1
        exact .inr (.inl ⟨_, rest, hi, by simp, hh, h1.symm⟩)
      · rename_i hh
        unfold takeWord at hf
        split at hf
        · cases hf
        · rename_i err hd
          injection hf with h1
          exact .inr (.inr (.inr (.inl ⟨w, rest, err, hi, by simpa using hh, hd, h1.symm⟩)))
    · rename_i c rest hi
      split at hf
      · rename_i hh
        injection hf with h1
        exact .inr (.inl ⟨_, rest, hi, by simp, hh, h1.symm⟩)
      · cases hf
    · rename_i hi
      split at hf
      · cases hf
      · rename_i hh
        injection hf with h1
        exact .inr (.inr (.inl ⟨hi, by simpa using hh, h1.symm⟩))
  · cases h

end Sys2Proof.Machine
end

