-- ==== Sys2Proof/Laws/PerInstr.lean ====
section
/-! SUPPORT. Laws/PerInstr: the per-instruction family EncodedRow: an instruction's encoding is legal as R88 and R95 define
it: a command word matches exactly one command row, a code is the row its nibble numbers. -/

namespace Sys2Proof.Laws

/-- How many command rows a word matches (R88). -/
def rowsMatched (w : Item) : Nat := (cmdRows.filter (fun r => r.matches w)).length

/-- R88: "A word `w` is legal when it matches exactly one command row"; R95: every nibble is a code. -/
def EncodedRow.Statement (i : Instr) : Prop :=
  match encode i with
  | .cmd w => rowsMatched w = 1
  | .code c => decodeCode c = i

theorem EncodedRow.decInit (ch : Nat) : EncodedRow.Statement (.decInit ch) := by
  show rowsMatched (0#16 ++ BitVec.ofNat 8 ch ++ 0x01#8) = 1
  generalize BitVec.ofNat 8 ch = x
  revert x
  decide +kernel

/-- Masking a word whose low byte stands apart. -/
theorem append_and_low (x : BitVec 24) (b : BitVec 8) (m : BitVec 24) (n : BitVec 8) :
    (x ++ b : BitVec 32) &&& (m ++ n) = (x &&& m) ++ (b &&& n) := BitVec.and_append

/-- Two words with different low bytes differ. -/
theorem append_ne (x y : BitVec 24) (b c : BitVec 8) (h : b ≠ c) : (x ++ b : BitVec 32) ≠ y ++ c := fun e =>
  h (by
    have := congrArg (BitVec.extractLsb' 0 8) e
    rwa [BitVec.extractLsb'_append_eq_right, BitVec.extractLsb'_append_eq_right] at this)

theorem EncodedRow.decData (len : Nat) : EncodedRow.Statement (.decData len) := by
  show rowsMatched (BitVec.ofNat 24 len ++ 0x02#8) = 1
  generalize BitVec.ofNat 24 len = x
  have other : ∀ (m p : BitVec 24) (q : BitVec 8), q ≠ 0x02#8 →
      ((x ++ 0x02#8 : BitVec 32) &&& (m ++ 0xFF#8) == p ++ q) = false := by
    intro m p q hq
    rw [append_and_low]
    exact beq_false_of_ne (append_ne _ _ _ _ (by simpa using fun e => hq e.symm))
  have own : ((x ++ 0x02#8 : BitVec 32) &&& (0#24 ++ 0xFF#8) == 0#24 ++ 0x02#8) = true := by
    rw [append_and_low]; simp
  have e1 := other 0xFFFF00 0 0x01 (by decide)
  have e3 := other 0xFF0000 0 0x03 (by decide)
  have e4 := other 0xFFFF00 0 0x04 (by decide)
  have e5 := other 0xFFFFFF 0 0x05 (by decide)
  have e6 := other 0xFFFFFF 0 0x06 (by decide)
  simp only [BitVec.reduceAppend] at own e1 e3 e4 e5 e6
  simp [rowsMatched, cmdRows, CmdRow.matches, own, e1, e3, e4, e5, e6]

theorem EncodedRow.encInit (ch la : Nat) : EncodedRow.Statement (.encInit ch la) := by
  show rowsMatched (0#8 ++ BitVec.ofNat 8 la ++ BitVec.ofNat 8 ch ++ 0x03#8) = 1
  generalize hx : (0#8 ++ BitVec.ofNat 8 la ++ BitVec.ofNat 8 ch : BitVec 24) = x
  have other : ∀ (m p : BitVec 24) (q : BitVec 8), q ≠ 0x03#8 →
      ((x ++ 0x03#8 : BitVec 32) &&& (m ++ 0xFF#8) == p ++ q) = false := by
    intro m p q hq
    rw [append_and_low]
    exact beq_false_of_ne (append_ne _ _ _ _ (by simpa using fun e => hq e.symm))
  have own : ((x ++ 0x03#8 : BitVec 32) &&& (0xFF0000#24 ++ 0xFF#8) == 0#24 ++ 0x03#8) = true := by
    rw [append_and_low, ← hx]
    have h0 : (0#8 ++ BitVec.ofNat 8 la ++ BitVec.ofNat 8 ch : BitVec 24) &&& 0xFF0000#24 = 0#24 := by
      rw [BitVec.append_assoc]
      show (0#8 ++ (BitVec.ofNat 8 la ++ BitVec.ofNat 8 ch) : BitVec 24) &&& (0xFF#8 ++ 0#16) = 0#24
      rw [BitVec.and_append]; simp
    rw [h0]; simp
  have e1 := other 0xFFFF00 0 0x01 (by decide)
  have e2 := other 0 0 0x02 (by decide)
  have e4 := other 0xFFFF00 0 0x04 (by decide)
  have e5 := other 0xFFFFFF 0 0x05 (by decide)
  have e6 := other 0xFFFFFF 0 0x06 (by decide)
  simp only [BitVec.reduceAppend] at own e1 e2 e4 e5 e6
  simp [rowsMatched, cmdRows, CmdRow.matches, own, e1, e2, e4, e5, e6]

theorem EncodedRow.encData (narr : Nat) : EncodedRow.Statement (.encData narr) := by
  show rowsMatched (0#16 ++ BitVec.ofNat 8 narr ++ 0x04#8) = 1
  generalize BitVec.ofNat 8 narr = x
  revert x
  decide +kernel

theorem EncodedRow.encFinish : EncodedRow.Statement .encFinish := rfl
theorem EncodedRow.encReset : EncodedRow.Statement .encReset := rfl
theorem EncodedRow.code0 : EncodedRow.Statement .code0 := rfl
theorem EncodedRow.code1 : EncodedRow.Statement .code1 := rfl
theorem EncodedRow.code2 : EncodedRow.Statement .code2 := rfl
theorem EncodedRow.code3 : EncodedRow.Statement .code3 := rfl
theorem EncodedRow.code4 : EncodedRow.Statement .code4 := rfl
theorem EncodedRow.code5 : EncodedRow.Statement .code5 := rfl
theorem EncodedRow.code6 : EncodedRow.Statement .code6 := rfl
theorem EncodedRow.code7 : EncodedRow.Statement .code7 := rfl
theorem EncodedRow.code8 : EncodedRow.Statement .code8 := rfl
theorem EncodedRow.code9 : EncodedRow.Statement .code9 := rfl
theorem EncodedRow.codeA : EncodedRow.Statement .codeA := rfl
theorem EncodedRow.codeB : EncodedRow.Statement .codeB := rfl
theorem EncodedRow.codeC : EncodedRow.Statement .codeC := rfl
theorem EncodedRow.codeD : EncodedRow.Statement .codeD := rfl
theorem EncodedRow.codeE : EncodedRow.Statement .codeE := rfl
theorem EncodedRow.codeF : EncodedRow.Statement .codeF := rfl

end Sys2Proof.Laws
end

