-- ==== Sys2Proof/Laws/Primitives.lean ====
section
/-! SUPPORT. Laws/Primitives: the ranges of the clamps and the tables, and one equation a piece of the search. -/

namespace Sys2Proof.Machine

theorem clampSample_bounds (x : Int) : -32768 ≤ clampSample x ∧ clampSample x ≤ 32767 := by
  unfold clampSample; omega

theorem clampSample_of_inRange {x : Int} (h1 : -32768 ≤ x) (h2 : x ≤ 32767) : clampSample x = x := by
  unfold clampSample; omega

theorem clampStepIndex_le (x : Int) : clampStepIndex x ≤ 88 := by
  unfold clampStepIndex; omega

theorem clampStepIndex_of_inRange {n : Nat} (h : n ≤ 88) : clampStepIndex (n : Int) = n := by
  unfold clampStepIndex; omega

/-- Every step size in the table is from 7 to 32767 (R110, R230). -/
theorem stepSize_bounds {i : Nat} (h : i ≤ 88) : 7 ≤ stepSize i ∧ stepSize i ≤ 32767 := by
  have key : ∀ i, i < 89 → 7 ≤ stepSize i ∧ stepSize i ≤ 32767 := by decide
  exact key i (by omega)

@[simp] theorem lane_step_pr (l : Lane) (code : Code) : (l.step code).pr = advance l.pr code := rfl

@[simp] theorem lane_step_out (l : Lane) (code : Code) :
    (l.step code).out = l.out ++ [BitVec.ofInt 16 (advance l.pr code).pred] := rfl

/-- R232: with no lookahead the first guess is the only code evaluated. -/
theorem minError_zero (W : Nat → Int) (pr : Predictor) (p : Nat) :
    minError W 0 pr p = (codeError pr (W p) (firstGuess pr (W p)), firstGuess pr (W p)) := rfl

/-- R233: one level of the search over the errors of the level below. -/
theorem minError_succ (W : Nat → Int) (d : Nat) (pr : Predictor) (p : Nat) :
    minError W (d + 1) pr p =
      (otherCodes (firstGuess pr (W p))).foldl
        (tryCode (codeError pr (W p)) (fun k => (minError W d (advance pr k) (p + 1)).1))
        (codeError pr (W p) (firstGuess pr (W p)) +
          (minError W d (advance pr (firstGuess pr (W p))) (p + 1)).1, firstGuess pr (W p)) := rfl

end Sys2Proof.Machine
end

