-- ==== Sys2Proof/Tests/Slice0.lean ====
section
/-! SUPPORT. Tests/Slice0: the well-formedness smoke test, words written out from the encodings, single steps whose
expected values stand in 95_test_vectors.md, and for every statement with hypotheses a state and operands that meet them. -/

namespace Sys2Proof.Tests
open Sys2Proof.Machine Sys2Proof.Claims

/-! ## Well-formedness: an ill-formed term for each check, and the greatest well-formed one -/

theorem test_wf_decInit : (Instr.decInit 256).WellFormed = false ∧ (Instr.decInit 255).WellFormed = true := by decide
theorem test_wf_decData :
    (Instr.decData 16777216).WellFormed = false ∧ (Instr.decData 16777215).WellFormed = true := by decide
theorem test_wf_encInit_ch : (Instr.encInit 256 0).WellFormed = false ∧ (Instr.encInit 255 0).WellFormed = true := by decide
theorem test_wf_encInit_la : (Instr.encInit 1 256).WellFormed = false ∧ (Instr.encInit 1 255).WellFormed = true := by decide
theorem test_wf_encData : (Instr.encData 256).WellFormed = false ∧ (Instr.encData 255).WellFormed = true := by decide

/-! ## Decoding: words written bit by bit from R80 to R86 and R97

The concatenations read bit 31 first: `w[31:24] ++ w[23:16] ++ w[15:8] ++ w[7:4] ++ OP`. -/

/-- The instruction a command word decodes to. -/
def readsAs (w : BitVec 32) : Option Instr := (decode (.cmd w)).toOption

/-- R81 row 0x1, `CH = 00000010`. -/
theorem test_word_decInit :
    readsAs (0b00000000#8 ++ 0b00000000#8 ++ 0b00000010#8 ++ 0b0000#4 ++ 0b0001#4) = some (.decInit 2) := by decide

/-- R81 row 0x2, `LEN = 00000001 00000010 00000011`: the three bytes keep their places (R84). -/
theorem test_word_decData :
    readsAs (0b00000001#8 ++ 0b00000010#8 ++ 0b00000011#8 ++ 0b0000#4 ++ 0b0010#4) = some (.decData 66051) := by decide

/-- R81 row 0x3, `LA = 10000000`, `CH = 00000111`. -/
theorem test_word_encInit :
    readsAs (0b00000000#8 ++ 0b10000000#8 ++ 0b00000111#8 ++ 0b0000#4 ++ 0b0011#4) = some (.encInit 7 128) := by decide

/-- R81 row 0x4, `NARR = 11111111`. -/
theorem test_word_encData :
    readsAs (0b00000000#8 ++ 0b00000000#8 ++ 0b11111111#8 ++ 0b0000#4 ++ 0b0100#4) = some (.encData 255) := by decide

theorem test_word_encFinish :
    readsAs (0b00000000#8 ++ 0b00000000#8 ++ 0b00000000#8 ++ 0b0000#4 ++ 0b0101#4) = some .encFinish := by decide

theorem test_word_encReset :
    readsAs (0b00000000#8 ++ 0b00000000#8 ++ 0b00000000#8 ++ 0b0000#4 ++ 0b0110#4) = some .encReset := by decide

/-- R97: the sixteen codes, each by its four bits. -/
theorem test_word_codes :
    decodeCode 0b0000#4 = .code0 ∧ decodeCode 0b0001#4 = .code1 ∧ decodeCode 0b0010#4 = .code2 ∧
    decodeCode 0b0011#4 = .code3 ∧ decodeCode 0b0100#4 = .code4 ∧ decodeCode 0b0101#4 = .code5 ∧
    decodeCode 0b0110#4 = .code6 ∧ decodeCode 0b0111#4 = .code7 ∧ decodeCode 0b1000#4 = .code8 ∧
    decodeCode 0b1001#4 = .code9 ∧ decodeCode 0b1010#4 = .codeA ∧ decodeCode 0b1011#4 = .codeB ∧
    decodeCode 0b1100#4 = .codeC ∧ decodeCode 0b1101#4 = .codeD ∧ decodeCode 0b1110#4 = .codeE ∧
    decodeCode 0b1111#4 = .codeF := by decide

/-- 95_test_vectors W-9, W-12, W-14, W-15, W-16 and `0x00000014` of R264: illegal words. -/
theorem test_word_illegal :
    readsAs 0x01000103#32 = none ∧ readsAs 0x00000105#32 = none ∧ readsAs 0x00000000#32 = none ∧
    readsAs 0x00000007#32 = none ∧ readsAs 0x0000000F#32 = none ∧ readsAs 0x00000012#32 = none ∧
    readsAs 0x00000014#32 = none ∧ readsAs 0x00010101#32 = none ∧ readsAs 0x00010104#32 = none := by decide

/-- The host's numbering: a command word at 32 bits, a code at 4 bits (one byte), an illegal word at neither. -/
theorem test_table_words :
    decodeTableWord 32 0x00010203 = some (.encInit 2 1) ∧ decodeTableWord 8 0xC = some .codeC ∧
    decodeTableWord 4 0x3 = some .code3 ∧ decodeTableWord 32 0 = none ∧ decodeTableWord 8 0x1C = none := by decide

/-! ## Helpers for single steps -/

/-- A view of the next state, or nothing. -/
def view {α : Type} (f : State → α) : Host.Outcome State Fault Refusal → Option α
  | .next t => some (f t)
  | .fault _ => none
  | .refused _ => none

/-- A decoder configured for `c` channels. -/
def decFor (c : Nat) : Decoder := { Decoder.zero with cfg := true, C := BitVec.ofNat 4 c }

/-- An encoder right after ENC_INIT with `c` channels and lookahead `la`. -/
def encFor (c la : Nat) : Encoder :=
  { Encoder.zero with cfg := true, C := BitVec.ofNat 4 c, L := BitVec.ofNat 8 la, fill := 1 }

/-- A sink that answers so next. -/
def sink (α : Type) (answers : List Answer) : SinkPort α := ⟨[], answers, 0⟩

/-- The machine with a decoder, the decoder sink's answers and the items on the port. -/
def decState (d : Decoder) (answers : List Answer) (items : List Item) : State :=
  { State.reset with d := d, decSink := sink _ answers, input := items.map .item }

/-- The machine with an encoder, the encoder sink's answers and the items on the port. -/
def encState (e : Encoder) (answers : List Answer) (items : List Item) : State :=
  { State.reset with e := e, encSink := sink _ answers, input := items.map .item }

/-- A window that starts with the seed 0 and these samples. -/
def windowOf (samples : List Int) : Vector Sample 66 :=
  Vector.ofFn (fun i => BitVec.ofInt 16 ((0 :: samples).getD i.val 0))

/-- A one-channel encoder, lookahead 0, that has buffered these samples since ENC_INIT. -/
def buffered (samples : List Int) : Encoder :=
  { encFor 1 0 with
    chan := Encoder.zero.chan.setIfInBounds 0 ⟨Predictor.zero, windowOf samples⟩
    fill := samples.length + 1 }

/-- Bytes of a hexadecimal block, eight digits a word, in stream order. -/
def hex (words : List (BitVec 32)) : List Byte :=
  words.flatMap (fun w => [w.extractLsb' 24 8, w.extractLsb' 16 8, w.extractLsb' 8 8, w.extractLsb' 0 8])

/-- A sample item. -/
def sampleItem (x : Int) : Item := (BitVec.ofInt 16 x).setWidth 32

/-- The one error value every choice of the parameter has (log 4). -/
def anError : SinkError := ⟨0, .inl rfl⟩

/-- The pair (1000, 40) of R116 to R131. -/
def at1000 : State := { State.reset with run := ⟨1000, 40⟩ }

/-- The pair after a code was run on its own. -/
def pairAfter (i : Instr) (s : State) : Option (Int × Nat) := view (fun t => (t.run.pred, t.run.idx)) (exec i s)

/-! ## The codes: the examples of R116 to R131, and a corner of the spec's where it gives one -/

theorem test_code0 : pairAfter .code0 at1000 = some (1042, 39) := by decide
theorem test_code1 : pairAfter .code1 at1000 = some (1126, 39) := by decide
theorem test_code2 : pairAfter .code2 at1000 = some (1210, 39) := by decide
theorem test_code3 : pairAfter .code3 at1000 = some (1294, 39) := by decide
theorem test_code4 : pairAfter .code4 at1000 = some (1379, 42) := by decide
theorem test_code5 : pairAfter .code5 at1000 = some (1463, 44) := by decide
theorem test_code6 : pairAfter .code6 at1000 = some (1547, 46) := by decide
theorem test_code7 : pairAfter .code7 at1000 = some (1631, 48) := by decide
theorem test_code8 : pairAfter .code8 at1000 = some (958, 39) := by decide
theorem test_code9 : pairAfter .code9 at1000 = some (874, 39) := by decide
theorem test_codeA : pairAfter .codeA at1000 = some (790, 39) := by decide
theorem test_codeB : pairAfter .codeB at1000 = some (706, 39) := by decide
theorem test_codeC : pairAfter .codeC at1000 = some (621, 42) := by decide
theorem test_codeD : pairAfter .codeD at1000 = some (537, 44) := by decide
theorem test_codeE : pairAfter .codeE at1000 = some (453, 46) := by decide
theorem test_codeF : pairAfter .codeF at1000 = some (369, 48) := by decide

/-- R119: code 3 at index 1 gives 7 (PR-10). -/
theorem test_code3_index_one : pairAfter .code3 { State.reset with run := ⟨0, 1⟩ } = some (7, 0) := by decide
/-- PR-8. -/
theorem test_code4_index_85 : pairAfter .code4 { State.reset with run := ⟨0, 85⟩ } = some (27700, 87) := by decide
/-- R123: `(0, 86) -> (32767, 88)` (PR-9). -/
theorem test_code7_clamps : pairAfter .code7 { State.reset with run := ⟨0, 86⟩ } = some (32767, 88) := by decide
/-- R124: at index 0 the delta is 0 and the index stays 0 (PR-11). -/
theorem test_code8_index_zero : pairAfter .code8 { State.reset with run := ⟨0, 0⟩ } = some (0, 0) := by decide
/-- R131: `(-32768, 88) -> (-32768, 88)` (PR-7). -/
theorem test_codeF_clamps : pairAfter .codeF { State.reset with run := ⟨-32768, 88⟩ } = some (-32768, 88) := by decide

/-! ## The decoder -/

/-- R150's example: `DEC_INIT ch=2`; the `STATUS` bits are R37's. -/
theorem test_decInit :
    view (fun t => (t.d.C, t.d.len, t.results, t.status)) (step (decState Decoder.zero [] [0x00000201#32])) =
      some (2#4, 0, [.ok], 0x00020100#32) := by decide

/-- R150's example: `DEC_INIT ch=9` halts with cause 1. -/
theorem test_decInit_nine :
    view (fun t => (t.status, t.faultCmdReg, t.results)) (step (decState Decoder.zero [] [0x00000901#32])) =
      some (0x00000011#32, 0x00000901#32, []) := by decide

/-- 95_test_vectors D-3: two channels, the grouped headers. -/
theorem test_decData :
    view (fun t => (t.decSink.log, t.d.len, t.results))
      (step (decState (decFor 2) [.ok, .ok] (0x00004802#32 ::
        ((hex [0x10000000#32, 0xf0ff0500#32, 0x11111111#32, 0x99999999#32]).map (fun b => b.setWidth 32) ++
          List.replicate 56 0#32)))) =
      some ([.reserve 64,
        .write [([17, 18, 19, 20, 21, 22, 23, 24] ++ List.replicate 56 24 : List Int).map (BitVec.ofInt 16),
          ([-20, -23, -26, -29, -32, -33, -34, -35] ++ List.replicate 56 (-35) : List Int).map (BitVec.ofInt 16)]],
        0, [.ok]) := by decide +kernel

/-- 95_test_vectors F-6: 72 bytes, the first write fails; 36 taken, 36 dropped. -/
theorem test_decData_write_error :
    view (fun t => (t.results, t.d.len, t.input, t.status))
      (step (decState (decFor 1) [.ok, .err anError] (0x00004802#32 :: List.replicate 72 0#32))) =
      some ([.sinkErr anError], 36, [], 0x00010500#32) := by decide +kernel

/-! ## The encoder -/

/-- R180's example: `ENC_INIT ch=1 la=0`. -/
theorem test_encInit :
    view (fun t => (t.e.C, t.e.L, t.e.fill, (t.e.channel 0).entry 0, t.status))
      (step (encState Encoder.zero [] [0x00000103#32])) = some (1#4, 0#8, 1, 0, 0x00100200#32) := by decide +kernel

/-- 95_test_vectors F-1. -/
theorem test_encInit_nine :
    view (fun t => (t.status, t.faultCmdReg)) (step (encState Encoder.zero [] [0x00000903#32])) =
      some (0x00000011#32, 0x00000903#32) := by decide

/-- 95_test_vectors E-4: a 65-sample ramp that crosses a block. -/
theorem test_encData :
    view (fun t => (t.encSink.log, t.e.fill, (t.e.channel 0).pr.pred, (t.e.channel 0).pr.idx,
        (t.e.channel 0).entry 0, (t.e.channel 0).entry 1))
      (step (encState (encFor 1 0) [.ok, .ok]
        (0x00000104#32 :: 65#32 :: (List.range 65).map (fun (k : Nat) => sampleItem (100 * ((k : Int) + 1)))))) =
      some ([.reserve 72,
        .write (hex [0x00000700#32, 0x77572122#32, 0x32333443#32, 0x33344342#32, 0x32244332#32, 0x43333443#32,
          0x33344333#32, 0x34332543#32, 0x32433334#32])], 2, 6401, 28, 6400, 6500) := by decide +kernel

/-- 95_test_vectors F-5: lengths 5 and 6 differ; both are taken. -/
theorem test_encData_lengths_differ :
    view (fun t => (t.status, t.input, t.encSink.log))
      (step (encState (encFor 2 0) [] [0x00000204#32, 5#32, 6#32])) =
      some (0x00200221#32, [], []) := by decide

/-- 95_test_vectors E-5: the samples 1 to 10 and the zero padding. -/
theorem test_encFinish :
    view (fun t => (t.encSink.log, t.e.fill, t.e.pinit))
      (step (encState (buffered [1, 2, 3, 4, 5, 6, 7, 8, 9, 10]) [.ok] [0x00000005#32])) =
      some ([.write (hex [0x00000000#32, 0x10111111#32, 0x118d8080#32, 0x88888888#32, 0x88888888#32, 0x88888888#32,
        0x88888888#32, 0x88888888#32, 0x88888888#32])], 1, false) := by decide +kernel

/-- 95_test_vectors E-6: nothing buffered, nothing emitted, no request. -/
theorem test_encFinish_empty :
    view (fun t => (t.encSink.log, t.e.fill, t.results)) (step (encState (encFor 1 0) [] [0x00000005#32])) =
      some ([], 1, [.ok]) := by decide

/-- R195's example: after 30 buffered frames. -/
theorem test_encReset :
    view (fun t => (t.encSink.log, t.e.fill, t.results))
      (step (encState { encFor 1 0 with fill := 31 } [] [0x00000006#32])) = some ([], 1, [.ok]) := by decide

/-- 95_test_vectors P5, command 3: ENC_RESET on a poisoned encoder. -/
theorem test_encReset_poisoned :
    view (fun t => (t.status, t.faultCmdReg))
      (step (encState { encFor 1 0 with poison := true, pinit := true, fill := 2 } [] [0x00000006#32])) =
      some (0x00101a51#32, 0x00000006#32) := by decide

/-! ## The functions under them -/

/-- PR-1. -/
theorem test_delta_step_7 :
    (List.range 16).map (fun c => reconstructDelta 7 (BitVec.ofNat 4 c)) =
      [0, 1, 3, 4, 7, 8, 10, 11, 0, -1, -3, -4, -7, -8, -10, -11] := by decide

/-- PR-12. -/
theorem test_midpoints :
    (List.range 12).map stepMidpoint = [7, 8, 9, 10, 11, 12, 13, 15, 16, 18, 20, 22] ∧ stepMidpoint 87 = 31280 := by
  decide

/-- E-1: the ramps `56k`, `100k` and `-100k`. -/
theorem test_averages :
    (decayingAverage (fun k => 56 * k), decayingAverage (fun k => 100 * k), decayingAverage (fun k => -100 * k)) =
      (7, 14, -14) ∧ (selectIndex 7, selectIndex 14, selectIndex (-14), selectIndex 7281) = (1, 7, 0, 72) := by
  decide +kernel

/-- S-1. -/
theorem test_first_guess :
    ([0, 1, 2, 3, 10, -1, -2, -10, 100, -100] : List Int).map (fun t => (firstGuess ⟨0, 0⟩ t).toNat) =
      [0, 0, 1, 1, 5, 8, 9, 13, 7, 15] := by decide

/-- S-5, S-6 and S-7: the trace of R240. -/
theorem test_search :
    minError (fun i => [0, 5, 10].getD i 0) 1 ⟨0, 0⟩ 0 = (2, 1#4) ∧
    minError (fun i => [0, 5, 10].getD i 0) 0 ⟨0, 0⟩ 0 = (0, 0#4) ∧
    minError (fun i => [0, 5, 10].getD i 0) 2 ⟨0, 0⟩ 0 = (3, 9#4) := by decide +kernel

/-- F-3: an illegal word, cause 3. -/
theorem test_illegal_word :
    view (fun t => (t.status, t.faultCmdReg)) (step (decState Decoder.zero [] [0x00000014#32])) =
      some (0x00000031#32, 0x00000014#32) := by decide

/-! ## Witnesses: the hypotheses of each statement, met together

Named after the statement. Where a statement has several clauses, one witness each, at the ends of its ranges. -/

/-- The items of a payload of `n` zero bytes. -/
def zeros (n : Nat) : List Item := List.replicate n 0#32

theorem witness_DecodeOfEncodeIsTheInstruction :
    (Instr.decInit 0).WellFormed = true ∧ (Instr.decData 16777215).WellFormed = true ∧
    (Instr.encInit 255 255).WellFormed = true ∧ (Instr.encData 0).WellFormed = true ∧
    Instr.codeF.WellFormed = true := by decide

theorem witness_DecodedWordIsTheEncoding :
    (decode (.cmd 0xFFFFFF02#32)).toOption = some (.decData 16777215) ∧
    (decode (.code 0xF#4)).toOption = some .codeF := by decide

/-- A legal word and an illegal one, each presented to a core that is not halted. -/
theorem witness_WordRunsOrFaultsAsIllegal :
    LegalWord 0x00000101#32 ∧ ¬ LegalWord 0x01000103#32 ∧
    (∀ w : Item, (decState Decoder.zero [] [w]).g.halted = false ∧ (decState Decoder.zero [] [w]).input = .item w :: []) :=
  ⟨by unfold LegalWord; decide, by unfold LegalWord; decide, fun _ => ⟨rfl, rfl⟩⟩

theorem witness_StepRunsTheDecodedInstruction_item :
    (decState Decoder.zero [] [0x00000801#32]).g.halted = false ∧
    (decState Decoder.zero [] [0x00000801#32]).input = .item 0x00000801#32 :: [] ∧
    (decode (.cmd 0x00000801#32)).toOption = some (.decInit 8) := by decide

theorem witness_StepRunsTheDecodedInstruction_code :
    ({ State.reset with input := [.code 0xF#4] } : State).g.halted = false ∧
    ({ State.reset with input := [.code 0xF#4] } : State).input = .code 0xF#4 :: [] := by decide

/-- A halted core. -/
def haltedState (ms : List HostMove) : State := { State.reset with g := ⟨true, 1, 0x00000901#32⟩, input := ms }

/-- One halted state for each clause: a command, a move that is not reset, no move. -/
theorem witness_HaltedCoreTakesNothing :
    (haltedState []).g.halted = true ∧ isCommand (.encData 0) = true ∧
    (haltedState [.item 0x00000101#32]).g.halted = true ∧
    (haltedState [.item 0x00000101#32]).input = .item 0x00000101#32 :: [] ∧ HostMove.item 0x00000101#32 ≠ .reset ∧
    (haltedState []).input = [] := by decide

theorem witness_IdleCoreHoldsItsState :
    (decState (decFor 8) [] []).g.halted = false ∧ (decState (decFor 8) [] []).input = [] := by decide

theorem witness_HardwareResetSetsEveryField :
    (haltedState [.reset, .item 0x00000101#32]).input = .reset :: [.item 0x00000101#32] := by decide

/-- The least and the greatest step of the bound, and pairs at both ends of their range. -/
theorem witness_DeltaAndSumsStayInTheirWidths :
    (0 ≤ 32767 ∧ 32767 ≤ 32767) ∧ (⟨-32768, 0⟩ : Predictor).InRange ∧ (⟨32767, 88⟩ : Predictor).InRange := by
  unfold Predictor.InRange; decide

theorem witness_AdvanceKeepsItsRange :
    (⟨-32768, 88⟩ : Predictor).InRange ∧ (⟨32767, 0⟩ : Predictor).InRange := by
  unfold Predictor.InRange; decide

/-- Both ends of the legal range and the values just outside it. -/
theorem witness_DecInitConfiguresOrFaults :
    State.reset.g.halted = false ∧ (1 ≤ 1 ∧ 1 ≤ 8) ∧ (1 ≤ 8 ∧ 8 ≤ 8) ∧ ¬ (1 ≤ 0 ∧ 0 ≤ 8) ∧ ¬ (1 ≤ 9 ∧ 9 ≤ 8) := by decide

/-- Unconfigured, and configured but poisoned, on both engines. -/
theorem witness_DataCommandsCheckTheirEngine :
    (State.reset.g.halted = false ∧ State.reset.d.cfg = false ∧ State.reset.e.cfg = false) ∧
    ((decState { decFor 1 with poison := true } [] []).g.halted = false ∧
      (decState { decFor 1 with poison := true } [] []).d.cfg = true ∧
      (decState { decFor 1 with poison := true } [] []).d.poison = true) ∧
    ((encState { encFor 1 0 with poison := true } [] []).g.halted = false ∧
      (encState { encFor 1 0 with poison := true } [] []).e.cfg = true ∧
      (encState { encFor 1 0 with poison := true } [] []).e.poison = true) := by decide

/-- One channel, 35 bytes buffered, 37 more: two whole blocks exactly. -/
theorem witness_DecDataDecodesTheStream :
    let s := decState { decFor 1 with len := 35 } [.ok, .ok, .ok] (zeros 37)
    s.g.halted = false ∧ s.d.Ok ∧ s.d.cfg = true ∧ s.d.poison = false ∧ s.input = presented (zeros 37) [] ∧
    DecAnswersOk s.decSink (1 + (liveBytes s.d ++ (zeros 37).map itemByte).length / blockBytes s.d.C.toNat) := by
  unfold Decoder.Ok DecAnswersOk; decide +kernel

/-- Eight channels, an empty payload: the reserve alone. -/
theorem witness_DecDataDecodesTheStream_empty :
    let s := decState { decFor 8 with len := 287 } [.ok] []
    s.g.halted = false ∧ s.d.Ok ∧ s.d.cfg = true ∧ s.d.poison = false ∧ s.input = presented [] [] ∧
    DecAnswersOk s.decSink (1 + (liveBytes s.d ++ ([] : List Item).map itemByte).length / blockBytes s.d.C.toNat) := by
  unfold Decoder.Ok DecAnswersOk; decide +kernel

/-- The 20 + 16 split of program P2. -/
theorem witness_DecDataSplitIsInvisible :
    let s := decState (decFor 1) [.ok, .ok, .ok] (zeros 36)
    s.g.halted = false ∧ s.d.Ok ∧ s.d.cfg = true ∧ s.d.poison = false ∧
    s.input = presented (zeros 20 ++ zeros 16) [] ∧
    DecAnswersOk s.decSink (2 + (s.d.len + (zeros 20).length + (zeros 16).length) / blockBytes s.d.C.toNat) := by
  unfold Decoder.Ok DecAnswersOk; decide +kernel

theorem witness_DecDataReserveErrorPoisons :
    let s := decState (decFor 1) [.err anError] (zeros 1)
    s.g.halted = false ∧ s.d.cfg = true ∧ s.d.poison = false ∧ s.input = presented (zeros 1) [] ∧
    s.decSink.answerAt Config.decAnswer 0 = .err anError := by decide

/-- F-6: exactly one block, and its write, the first, fails. -/
theorem witness_DecDataWriteErrorPoisons :
    let s := decState (decFor 1) [.ok, .err anError] (zeros 36)
    s.g.halted = false ∧ s.d.Ok ∧ s.d.cfg = true ∧ s.d.poison = false ∧ s.input = presented (zeros 36) [] ∧
    (0 + 1) * blockBytes s.d.C.toNat ≤ (liveBytes s.d ++ (zeros 36).map itemByte).length ∧
    DecAnswersOk s.decSink (1 + 0) ∧ s.decSink.answerAt Config.decAnswer (1 + 0) = .err anError := by
  unfold Decoder.Ok DecAnswersOk; decide +kernel

/-- Two blocks from 35 buffered bytes and 37 new ones, and the write of the second fails. -/
theorem witness_DecDataWriteErrorPoisons_later :
    let s := decState { decFor 1 with len := 35 } [.ok, .ok, .err anError] (zeros 37)
    s.g.halted = false ∧ s.d.Ok ∧ s.d.cfg = true ∧ s.d.poison = false ∧ s.input = presented (zeros 37) [] ∧
    (1 + 1) * blockBytes s.d.C.toNat ≤ (liveBytes s.d ++ (zeros 37).map itemByte).length ∧
    DecAnswersOk s.decSink (1 + 1) ∧ s.decSink.answerAt Config.decAnswer (1 + 1) = .err anError := by
  unfold Decoder.Ok DecAnswersOk; decide +kernel

/-- Two one-channel blocks that differ in the reserved byte alone. -/
theorem witness_ReservedHeaderByteIsIgnored :
    ∀ i, ¬ (i < 4 * 1 ∧ i % 4 = 3) →
      blockByte [0#8, 1#8, 0x30#8, 0xaa#8] i = blockByte [0#8, 1#8, 0x30#8, 0x00#8] i := by
  intro i h
  rcases i with _ | _ | _ | _ | i
  · rfl
  · rfl
  · rfl
  · omega
  · rfl

/-- One channel, the greatest header and 64 codes. -/
theorem witness_BlockFormatRoundTrip :
    ([(0x8000#16, 88)] : List (Sample × Nat)).length = ([List.replicate 64 0xF#4] : List (List Code)).length ∧
    (∀ h ∈ ([(0x8000#16, 88)] : List (Sample × Nat)), h.2 ≤ 88) ∧
    (∀ ks ∈ ([List.replicate 64 0xF#4] : List (List Code)), ks.length = 64) := by decide

/-- Both ends of the legal range and the values just outside it, with the greatest lookahead. -/
theorem witness_EncInitConfiguresOrFaults :
    State.reset.g.halted = false ∧ 255 < 256 ∧ (1 ≤ 1 ∧ 1 ≤ 8) ∧ (1 ≤ 8 ∧ 8 ≤ 8) ∧ ¬ (1 ≤ 0 ∧ 0 ≤ 8) ∧
    ¬ (1 ≤ 9 ∧ 9 ≤ 8) := by decide

/-- F-4: one length item where two channels are configured. -/
theorem witness_EncDataArrayMismatchFaults_count :
    let s := encState (encFor 2 0) [] [5#32]
    s.g.halted = false ∧ s.e.cfg = true ∧ s.e.poison = false ∧ s.input = presented [5#32] [] ∧
    [5#32].length ≠ s.e.C.toNat := by decide

/-- F-5: two length items that differ. -/
theorem witness_EncDataArrayMismatchFaults_lengths :
    let s := encState (encFor 2 0) [] [5#32, 6#32]
    s.g.halted = false ∧ s.e.cfg = true ∧ s.e.poison = false ∧ s.input = presented [5#32, 6#32] [] ∧
    ∃ a ∈ [5#32, 6#32], ∃ b ∈ [5#32, 6#32], a ≠ b :=
  ⟨by decide, by decide, by decide, by decide, 5#32, by decide, 6#32, by decide, by decide⟩

/-- E-2: 64 samples, the last frame that does not fill the window. -/
theorem witness_EncDataBuffersFrames :
    let s := encState (encFor 1 0) [.ok] (encPayload 1 64 (zeros 64))
    s.g.halted = false ∧ s.e.Ok ∧ s.e.cfg = true ∧ s.e.poison = false ∧ 64 < 4294967296 ∧
    (zeros 64).length = 64 * s.e.C.toNat ∧ s.input = presented (encPayload s.e.C.toNat 64 (zeros 64)) [] ∧
    s.e.fill + 64 ≤ 65 ∧ EncAnswersOk s.encSink 1 := by
  unfold Encoder.Ok Predictor.InRange EncAnswersOk; decide +kernel

/-- E-2: the 65th sample fills the window. -/
theorem witness_EncDataEmitsABlockPerFullWindow :
    let s := encState (encFor 1 0) [.ok, .ok] (encPayload 1 65 (zeros 65))
    s.g.halted = false ∧ s.e.Ok ∧ s.e.cfg = true ∧ s.e.poison = false ∧ 65 < 4294967296 ∧
    (zeros 65).length = 65 * s.e.C.toNat ∧ s.input = presented (encPayload s.e.C.toNat 65 (zeros 65)) [] ∧
    EncAnswersOk s.encSink (1 + blocksEmitted s.e.fill 65) := by
  unfold Encoder.Ok Predictor.InRange EncAnswersOk; decide +kernel

/-- 35 frames on an encoder that holds 30: two channels, the window exactly full. -/
theorem witness_EncDataPacksTheFullWindow :
    let s := encState { encFor 2 0 with fill := 31 } [.ok, .ok] (encPayload 2 35 (zeros 70))
    s.g.halted = false ∧ s.e.Ok ∧ s.e.cfg = true ∧ s.e.poison = false ∧ (zeros 70).length = 35 * s.e.C.toNat ∧
    s.input = presented (encPayload s.e.C.toNat 35 (zeros 70)) [] ∧ s.e.fill + 35 = 66 ∧ EncAnswersOk s.encSink 2 := by
  unfold Encoder.Ok Predictor.InRange EncAnswersOk; decide +kernel

/-- The 30 + 40 split of program P3. -/
theorem witness_EncDataSplitIsInvisible :
    let s := encState (encFor 2 1) [.ok, .ok, .ok] []
    s.g.halted = false ∧ s.e.Ok ∧ s.e.cfg = true ∧ s.e.poison = false ∧ 30 + 40 < 4294967296 ∧
    (zeros 60).length = 30 * s.e.C.toNat ∧ (zeros 80).length = 40 * s.e.C.toNat ∧
    EncAnswersOk s.encSink (2 + blocksEmitted s.e.fill (30 + 40)) := by
  unfold Encoder.Ok Predictor.InRange EncAnswersOk; decide +kernel

/-- F-10. -/
theorem witness_EncDataReserveErrorPoisons :
    let s := encState (encFor 1 0) [.err anError] (encPayload 1 64 (zeros 64))
    s.g.halted = false ∧ 1 ≤ s.e.C.toNat ∧ s.e.cfg = true ∧ s.e.poison = false ∧ 64 < 4294967296 ∧
    (zeros 64).length = 64 * s.e.C.toNat ∧ s.input = presented (encPayload s.e.C.toNat 64 (zeros 64)) [] ∧
    s.encSink.answerAt Config.encAnswer 0 = .err anError := by decide +kernel

/-- P5, command 2: the first block write fails. -/
theorem witness_EncDataWriteErrorPoisons :
    let s := encState (encFor 1 0) [.ok, .err anError] (encPayload 1 70 (zeros 70))
    s.g.halted = false ∧ s.e.Ok ∧ s.e.cfg = true ∧ s.e.poison = false ∧ 70 < 4294967296 ∧
    (zeros 70).length = 70 * s.e.C.toNat ∧ s.input = presented (encPayload s.e.C.toNat 70 (zeros 70)) [] ∧
    66 + 64 * 0 ≤ s.e.fill + 70 ∧ EncAnswersOk s.encSink (1 + 0) ∧
    s.encSink.answerAt Config.encAnswer (1 + 0) = .err anError := by
  unfold Encoder.Ok Predictor.InRange EncAnswersOk; decide +kernel

/-- 65 frames on a window that holds 64 samples and the seed: two blocks exactly, and the write of the second fails. -/
theorem witness_EncDataWriteErrorPoisons_later :
    let s := encState { encFor 1 0 with fill := 65 } [.ok, .ok, .err anError] (encPayload 1 65 (zeros 65))
    s.g.halted = false ∧ s.e.Ok ∧ s.e.cfg = true ∧ s.e.poison = false ∧ 65 < 4294967296 ∧
    (zeros 65).length = 65 * s.e.C.toNat ∧ s.input = presented (encPayload s.e.C.toNat 65 (zeros 65)) [] ∧
    66 + 64 * 1 ≤ s.e.fill + 65 ∧ EncAnswersOk s.encSink (1 + 1) ∧
    s.encSink.answerAt Config.encAnswer (1 + 1) = .err anError := by
  unfold Encoder.Ok Predictor.InRange EncAnswersOk; decide +kernel

theorem witness_DecayingAverageIsBounded : SampleWindow (fun i => if i % 2 = 0 then 32767 else -32768) := by
  intro i
  dsimp only
  split <;> decide

/-- The two clauses at the ends of the table. -/
theorem witness_SelectedIndexIsTheSmallest : 0 < selectIndex 7281 ∧ selectIndex (-1) < 88 := by decide +kernel

/-- Any encoder of 1 to 8 channels with predictors in range: here 8 channels, right after ENC_INIT. -/
theorem witness_PackedHeaderHoldsReferenceAndIndex :
    (encFor 8 0).C.toNat ≤ 8 ∧ (∀ c, c < 8 → ((encFor 8 0).channel c).pr.InRange) ∧ 7 < (encFor 8 0).C.toNat := by
  unfold Predictor.InRange; decide +kernel

theorem witness_DecoderFollowsTheEncoder :
    (encFor 1 255).C.toNat ≤ 8 ∧ (∀ c, c < 8 → ((encFor 1 255).channel c).pr.InRange) := by
  unfold Predictor.InRange; decide +kernel

/-- The last channel of eight, with the greatest lookahead; the first and the last coded position. -/
theorem witness_PackedCodesAreTheSearchChoices :
    (encFor 8 255).C.toNat ≤ 8 ∧ (∀ c, c < 8 → ((encFor 8 255).channel c).pr.InRange) ∧ 7 < (encFor 8 255).C.toNat ∧
    (1 ≤ 1 ∧ 1 ≤ 64) ∧ (1 ≤ 64 ∧ 64 ≤ 64) := by
  unfold Predictor.InRange; decide +kernel

theorem witness_WindowShiftKeepsLastTwoEntries : (encFor 8 0).C.toNat ≤ 8 ∧ 7 < (encFor 8 0).C.toNat := by decide

/-- A one-channel encoder and channel 7 of an eight-channel one. -/
theorem witness_EncodedChannelIsIndependent :
    (encFor 1 3).C.toNat ≤ 8 ∧ (encFor 8 3).C.toNat ≤ 8 ∧ 0 < (encFor 1 3).C.toNat ∧ 7 < (encFor 8 3).C.toNat ∧
    (encFor 1 3).L = (encFor 8 3).L ∧ (encFor 1 3).pinit = (encFor 8 3).pinit ∧
    (encFor 1 3).channel 0 = (encFor 8 3).channel 7 := by decide +kernel

/-- One sample buffered, the fewest that emit a block. -/
theorem witness_EncFinishEmitsThePaddedBlock :
    let s := encState (buffered [1]) [.ok] []
    s.g.halted = false ∧ s.e.Ok ∧ s.e.cfg = true ∧ s.e.poison = false ∧ 2 ≤ s.e.fill ∧ EncAnswersOk s.encSink 1 := by
  unfold Encoder.Ok Predictor.InRange EncAnswersOk; decide +kernel

theorem witness_EncFinishWithNothingBuffered :
    let s := encState (encFor 8 0) [] []
    s.g.halted = false ∧ s.e.cfg = true ∧ s.e.poison = false ∧ s.e.fill ≤ 1 := by decide

theorem witness_EncFinishWriteErrorPoisons :
    let s := encState { encFor 1 0 with fill := 65 } [.err anError] []
    s.g.halted = false ∧ s.e.cfg = true ∧ s.e.poison = false ∧ 2 ≤ s.e.fill ∧
    s.encSink.answerAt Config.encAnswer 0 = .err anError := by decide

theorem witness_EncResetDropsTheSession :
    let s := encState { encFor 8 255 with fill := 65, pinit := true } [] []
    s.g.halted = false ∧ s.e.cfg = true ∧ s.e.poison = false := by decide

/-- R240's state: the first guess does not win; and one where it does. -/
theorem witness_SearchReturnsTheLeastTotal :
    (minError (fun i => [0, 5].getD i 0) 1 ⟨0, 0⟩ 0).2 ≠ firstGuess ⟨0, 0⟩ 0 ∧
    totalError (fun i => [0, 5].getD i 0) 0 ⟨0, 0⟩ 0 1#4 = (minError (fun i => [0, 5].getD i 0) 1 ⟨0, 0⟩ 0).1 ∧
    totalError (fun _ => 0) 0 ⟨0, 0⟩ 0 (firstGuess ⟨0, 0⟩ 0) = (minError (fun _ => 0) 1 ⟨0, 0⟩ 0).1 := by
  decide +kernel

theorem witness_SearchErrorsAreBounded : SampleWindow (fun _ => -32768) ∧ 64 ≤ 64 :=
  ⟨fun _ => by dsimp only; decide, by decide⟩

/-- Two windows that agree up to the depth and differ after it; a lookahead at the cap and one above it. -/
theorem witness_LookaheadIsCapped :
    (∀ i, 1 ≤ i → i ≤ 1 + 0 → (fun i => if i < 2 then (5 : Int) else 6) i = (fun _ => 5) i) ∧ 64 ≤ 64 ∧ 64 ≤ 255 := by
  refine ⟨fun i h1 h2 => ?_, by decide, by decide⟩
  have : i < 2 := by omega
  simp [this]

/-- DEC_INIT of no channel halts the core from a state that is not halted. -/
theorem witness_FaultsArePrecise :
    ∃ t, exec (.decInit 0) State.reset = .next t ∧ t.g.halted = true ∧ isCommand (.decInit 0) = true :=
  ⟨_, rfl, rfl, rfl⟩

/-- An illegal word and a faulting command. -/
theorem witness_FaultRecordsTheWordTaken :
    (∃ t, (decState Decoder.zero [] [0#32]).g.halted = false ∧
      (decState Decoder.zero [] [0#32]).input = .item 0#32 :: [] ∧
      step (decState Decoder.zero [] [0#32]) = .next t ∧ t.g.halted = true) ∧
    (∃ t, (decState Decoder.zero [] [0x00000002#32]).g.halted = false ∧
      (decState Decoder.zero [] [0x00000002#32]).input = .item 0x00000002#32 :: [] ∧
      step (decState Decoder.zero [] [0x00000002#32]) = .next t ∧ t.g.halted = true) :=
  ⟨⟨_, rfl, rfl, rfl, rfl⟩, ⟨_, rfl, rfl, rfl, rfl⟩⟩

theorem witness_OnlyResetLeavesTheHaltedState :
    ∃ t, step (haltedState [.reset]) = .next t ∧ (haltedState [.reset]).g.halted = true ∧ t.g.halted = false :=
  ⟨_, rfl, rfl, rfl⟩

/-- DEC_INIT and ENC_INIT change the counts; a hardware reset clears a poison. -/
theorem witness_ConfigurationChangesOnlyByInit :
    (∃ t, step (decState Decoder.zero [] [0x00000101#32]) = .next t ∧ t.d.C ≠ (decState Decoder.zero [] [0x00000101#32]).d.C) ∧
    (∃ t, step (encState Encoder.zero [] [0x00000103#32]) = .next t ∧ t.e.C ≠ (encState Encoder.zero [] [0x00000103#32]).e.C) ∧
    (∃ t, step { decState { decFor 1 with poison := true } [] [] with input := [.reset] } = .next t ∧
      t.d.poison = false) :=
  ⟨⟨_, rfl, by decide⟩, ⟨_, rfl, by decide⟩, ⟨_, rfl, rfl⟩⟩

/-- A command that halts and a command that gives a result. -/
theorem witness_OneResultPerCommand :
    (∃ t, isCommand (.decInit 9) = true ∧ exec (.decInit 9) State.reset = .next t) ∧
    (∃ t, isCommand (.encInit 8 0) = true ∧ exec (.encInit 8 0) State.reset = .next t) :=
  ⟨⟨_, rfl, rfl⟩, ⟨_, rfl, rfl⟩⟩

/-- A decoder command, an encoder command and a code. -/
theorem witness_EnginesDoNotInteract :
    (∃ t, exec (.decInit 1) State.reset = .next t ∧ isDecCommand (.decInit 1) = true) ∧
    (∃ t, exec .encReset State.reset = .next t ∧ isEncCommand .encReset = true) ∧
    (∃ t, exec .code7 State.reset = .next t ∧ isCommand .code7 = false) :=
  ⟨⟨_, rfl, rfl⟩, ⟨_, rfl, rfl⟩, ⟨_, rfl, rfl⟩⟩

theorem witness_RequestsAndResultsOnlyGrow : ∃ t, step (decState Decoder.zero [] [0x00000101#32]) = .next t := ⟨_, rfl⟩

/-- 35 bytes of a block's 36, and the host's moves end. -/
theorem witness_MissingPayloadIsStuck_bytes :
    let s := decState (decFor 1) [] (zeros 35)
    s.g.halted = false ∧ CutOff [] ∧ s.input = presented (zeros 35) [] ∧ s.d.cfg = true ∧ s.d.poison = false ∧
    (zeros 35).length < 36 :=
  ⟨rfl, nofun, by decide, rfl, rfl, by decide⟩

/-- One length item of two, and the host resets the core. -/
theorem witness_MissingPayloadIsStuck_lengths :
    let s : State := { State.reset with e := encFor 2 0, input := presented [5#32] [.reset] }
    s.g.halted = false ∧ CutOff [.reset] ∧ s.input = presented [5#32] [.reset] ∧ s.e.cfg = true ∧
    s.e.poison = false ∧ [5#32].length < 2 :=
  ⟨rfl, nofun, rfl, rfl, rfl, by decide⟩

/-- Lengths that match and one sample short of two frames, cut off by a code. -/
theorem witness_MissingPayloadIsStuck_samples :
    let s : State := { State.reset with e := encFor 2 0, input := presented (encPayload 2 2 (zeros 3)) [.code 0#4] }
    s.g.halted = false ∧ CutOff [.code 0#4] ∧ s.input = presented (encPayload 2 2 (zeros 3)) [.code 0#4] ∧
    s.e.cfg = true ∧ s.e.poison = false ∧ encPayload 2 2 (zeros 3) = encPayload s.e.C.toNat 2 (zeros 3) ∧
    2 < 4294967296 ∧ (zeros 3).length < 2 * s.e.C.toNat :=
  ⟨rfl, nofun, rfl, rfl, rfl, rfl, by decide, by decide⟩

/-- A configured machine that takes a DEC_INIT word. -/
theorem witness_EveryStepKeepsTheInvariant :
    (decState (decFor 8) [] [0x00000101#32]).Inv ∧ ∃ t, step (decState (decFor 8) [] [0x00000101#32]) = .next t :=
  ⟨{ global := by unfold Global.Ok; decide
     decoder := by unfold Decoder.Ok; decide
     encoder := by unfold Encoder.Ok Predictor.InRange; decide +kernel
     decLog := fun r h => by cases h
     encLog := fun r h => by cases h
     pair := by unfold Predictor.InRange; decide }, ⟨_, rfl⟩⟩

end Sys2Proof.Tests
end

section
/-! PROOFS. What each kind of instruction can do to the state, said once, and from it the noninterference of the two
engines (O56). -/

namespace Sys2Proof.Machine
open Sys2Proof.Claims

/-! ## A command's own effect: one result, and nothing outside its engine -/

/-- DEC_DATA after its checks gives one result and writes the decoder and its sink alone (R151). -/
theorem decodeCommand_eq_complete (bytes : List Byte) (s : State) :
    ∃ d k r, decodeCommand bytes s = complete r { s with d := d, decSink := k } := by
  unfold decodeCommand
  split
  · exact ⟨_, _, _, rfl⟩
  · exact ⟨_, _, _, rfl⟩

/-- ENC_DATA after its checks gives one result and writes the encoder and its sink alone (R181). -/
theorem encodeCommand_eq_complete (frames : List (List Sample)) (s : State) :
    ∃ e k r, encodeCommand frames s = complete r { s with e := e, encSink := k } := by
  unfold encodeCommand
  split
  · exact ⟨_, _, _, rfl⟩
  · exact ⟨_, _, _, rfl⟩

/-- ENC_FINISH after its checks gives one result and writes the encoder and its sink alone (R194). -/
theorem finishCommand_eq_complete (s : State) :
    ∃ e k r, finishCommand s = complete r { s with e := e, encSink := k } := by
  unfold finishCommand
  split
  · split
    · exact ⟨_, _, _, rfl⟩
    · exact ⟨_, _, _, rfl⟩
  · exact ⟨_, s.encSink, _, rfl⟩

/-! ## Every way an instruction can answer a next state -/

/-- A decoder command takes the fault of its check, or gives one result having written the command port, the decoder and
the decoder's sink alone. -/
theorem exec_decCommand_next {i : Instr} {s t : State} (hi : isDecCommand i = true) (h : exec i s = .next t) :
    (∃ cause, t = raiseFault cause (cmdWord i) s) ∨
    (∃ input d k r, t = complete r { s with input := input, d := d, decSink := k }) := by
  cases i with
  | decInit ch =>
    simp only [exec, execDecInit] at h
    obtain ⟨-, ⟨cause, -, rfl⟩ | ⟨-, hbody⟩⟩ := guarded_next h
    · exact .inl ⟨cause, rfl⟩
    · cases hbody
      exact .inr ⟨s.input, _, s.decSink, _, rfl⟩
  | decData len =>
    simp only [exec, execDecData] at h
    obtain ⟨-, ⟨cause, -, rfl⟩ | ⟨-, hbody⟩⟩ := guarded_next h
    · exact .inl ⟨cause, rfl⟩
    · split at hbody
      · cases hbody
      · next items rest _ =>
        cases hbody
        obtain ⟨d, k, r, heq⟩ := decodeCommand_eq_complete (items.map itemByte) { s with input := rest }
        exact .inr ⟨rest, d, k, r, heq⟩
  | _ => cases hi

/-- The sample part of ENC_DATA gives one result having written the command port, the encoder and the encoder's sink
alone (R181). -/
theorem takeFrames_next {n : Nat} {s t : State} (h : takeFrames n s = .next t) :
    ∃ input e k r, t = complete r { s with input := input, e := e, encSink := k } := by
  unfold takeFrames at h
  split at h
  · cases h
  · next items rest _ =>
    cases h
    obtain ⟨e, k, r, heq⟩ :=
      encodeCommand_eq_complete (framesOf s.e.C.toNat n (items.map itemSample)) { s with input := rest }
    exact ⟨rest, e, k, r, heq⟩

/-- An encoder command takes a fault (ENC_DATA's of cause 2 with its length items taken, R264), or gives one result having
written the command port, the encoder and the encoder's sink alone. -/
theorem exec_encCommand_next {i : Instr} {s t : State} (hi : isEncCommand i = true) (h : exec i s = .next t) :
    (∃ cause input, t = raiseFault cause (cmdWord i) { s with input := input }) ∨
    (∃ input e k r, t = complete r { s with input := input, e := e, encSink := k }) := by
  cases i with
  | encInit ch la =>
    simp only [exec, execEncInit] at h
    obtain ⟨-, ⟨cause, -, rfl⟩ | ⟨-, hbody⟩⟩ := guarded_next h
    · exact .inl ⟨cause, s.input, rfl⟩
    · cases hbody
      exact .inr ⟨s.input, _, s.encSink, _, rfl⟩
  | encData narr =>
    simp only [exec, execEncData] at h
    obtain ⟨-, ⟨cause, -, rfl⟩ | ⟨-, hbody⟩⟩ := guarded_next h
    · exact .inl ⟨cause, s.input, rfl⟩
    · split at hbody
      · cases hbody
      · next lens rest _ =>
        split at hbody
        · obtain ⟨input, e, k, r, heq⟩ := takeFrames_next hbody
          exact .inr ⟨input, e, k, r, heq⟩
        · cases hbody
          exact .inl ⟨.arrayMismatch, rest, rfl⟩
  | encFinish =>
    simp only [exec, execEncFinish] at h
    obtain ⟨-, ⟨cause, -, rfl⟩ | ⟨-, hbody⟩⟩ := guarded_next h
    · exact .inl ⟨cause, s.input, rfl⟩
    · cases hbody
      exact .inr ⟨s.input, finishCommand_eq_complete s⟩
  | encReset =>
    simp only [exec, execEncReset] at h
    obtain ⟨-, ⟨cause, -, rfl⟩ | ⟨-, hbody⟩⟩ := guarded_next h
    · exact .inl ⟨cause, s.input, rfl⟩
    · cases hbody
      exact .inr ⟨s.input, _, s.encSink, _, rfl⟩
  | _ => cases hi

/-- An instruction that is no command advances the pair under the code of its encoding (R97, R115, log entry 2). -/
theorem exec_code {i : Instr} (hi : isCommand i = false) (s : State) :
    ∃ c, encode i = .code c ∧ exec i s = .next (runCode c s) := by
  cases i with
  | decInit | decData | encInit | encData | encFinish | encReset => cases hi
  | _ => exact ⟨_, rfl, rfl⟩

/-! ## The obligation -/

/-- Settles O56: a command's fault writes `G` alone, its completion its own engine's side alone, and a code the pair. -/
theorem enginesDoNotInteract : Obligations.EnginesDoNotInteract := by
  unfold Obligations.EnginesDoNotInteract
  intro i s t h
  refine ⟨fun hdec => ?_, fun henc => ?_, fun hcode => ?_⟩
  · obtain ⟨cause, rfl⟩ | ⟨input, d, k, r, rfl⟩ := exec_decCommand_next hdec h
    · simp
    · simp
  · obtain ⟨cause, input, rfl⟩ | ⟨input, e, k, r, rfl⟩ := exec_encCommand_next henc h
    · simp
    · simp
  · obtain ⟨c, -, hc⟩ := exec_code hcode s
    cases hc.symm.trans h
    rfl

end Sys2Proof.Machine
end

section
/-! PROOFS. The invariant between commands: what each engine's loop keeps, and from it that every step keeps the whole
invariant (O60) and that it holds at reset (O59). -/

namespace Sys2Proof.Machine
open Sys2Proof.Claims

/-! ## Predictor pairs stay in range (R31, R134) -/

theorem predictor_zero_inRange : Predictor.zero.InRange := by
  unfold Predictor.InRange; decide

theorem advance_inRange (p : Predictor) (code : Code) : (advance p code).InRange :=
  ⟨(clampSample_bounds _).1, (clampSample_bounds _).2, clampStepIndex_le _⟩

theorem codeSamples_inRange (la : Nat) (W : Nat → Int) (n p : Nat) {pr : Predictor} (h : pr.InRange) :
    (codeSamples la W n p pr).1.InRange := by
  induction n generalizing p pr with
  | zero => exact h
  | succ n ih => exact ih (p + 1) (advance_inRange _ _)

theorem entry_bounds (ch : Channel) (i : Nat) : -32768 ≤ ch.entry i ∧ ch.entry i ≤ 32767 := by
  have hlo := BitVec.le_toInt ((ch.win[i]?).getD 0)
  have hhi := BitVec.toInt_lt (x := (ch.win[i]?).getD 0)
  unfold Channel.entry
  omega

theorem coded_inRange (la : Nat) {ch : Channel} (h : ch.pr.InRange) : (ch.coded la).1.InRange := by
  obtain ⟨-, -, hidx⟩ := h
  unfold Channel.coded
  exact codeSamples_inRange la _ _ _ ⟨(entry_bounds ch 0).1, (entry_bounds ch 0).2, hidx⟩

theorem selectIndex_le (avg : Int) : selectIndex avg ≤ 88 := by
  unfold selectIndex
  cases hfind : (List.range Config.maxStepIndex).find? (fun i => decide (avg < (stepMidpoint i : Int))) with
  | none => exact le_rfl
  | some i => exact (List.mem_range.mp (List.mem_of_find?_eq_some hfind)).le

theorem seed_inRange (ch : Channel) : ch.seed.pr.InRange := by
  simp [Channel.seed, Predictor.InRange, selectIndex_le]

@[simp] theorem channel_pad_pr (fill : Nat) (ch : Channel) : (ch.pad fill).pr = ch.pr := by
  unfold Channel.pad
  induction List.range' fill (Config.windowLen - fill) generalizing ch with
  | nil => rfl
  | cons i is ih => exact ih (ch.setEntry i 0)

/-! ## A bank of eight channels -/

/-- Every pair of a bank is in range: the third part of `Encoder.Ok`. -/
def BankInRange (v : Vector Channel 8) : Prop := ∀ c, c < 8 → (channelOf v c).pr.InRange

theorem updateChannels_bankInRange {f : Nat → Channel → Channel} (n : Nat) {v : Vector Channel 8}
    (hf : ∀ c ch, ch.pr.InRange → (f c ch).pr.InRange) (hv : BankInRange v) :
    BankInRange (updateChannels f n v) := by
  intro c hc
  rw [channelOf_updateChannels f n v c hc]
  split
  · exact hf c _ (hv c hc)
  · exact hv c hc

theorem updateAll_bankInRange {f : Channel → Channel} {v : Vector Channel 8}
    (hf : ∀ ch, ch.pr.InRange → (f ch).pr.InRange) (hv : BankInRange v) : BankInRange (updateAll f v) := by
  intro c hc
  rw [channelOf_updateAll f v c hc]
  exact hf _ (hv c hc)

theorem channelOf_encoder_zero {c : Nat} (hc : c < 8) : channelOf Encoder.zero.chan c = Channel.zero := by
  simp [channelOf, Encoder.zero, hc]

theorem encoder_zero_bankInRange : BankInRange Encoder.zero.chan := by
  intro c hc
  rw [channelOf_encoder_zero hc]
  exact predictor_zero_inRange

/-! ## The size of what is written to a sink -/

/-- Every request a sink port has logged satisfies `ok`: the part of `State.Inv` about that port. -/
def SinkPort.LogOk {α : Type} (ok : Request α → Prop) (k : SinkPort α) : Prop := ∀ r ∈ k.log, ok r

theorem ask_logOk {α : Type} {free : Nat → Answer} {ok : Request α → Prop} {r : Request α} {k k' : SinkPort α}
    {a : Answer} (hk : k.LogOk ok) (hr : ok r) (hask : k.ask free r = (k', a)) : k'.LogOk ok := by
  have hlog : k'.log = k.log ++ [r] := by rw [← ask_log free r k, hask]
  intro q hq
  rw [hlog, List.mem_append, List.mem_singleton] at hq
  obtain hq | rfl := hq
  · exact hk q hq
  · exact hr

/-- Each code puts out one sample (R154). -/
theorem foldl_laneStep_out_length (codes : List Code) (l : Lane) :
    (codes.foldl Lane.step l).out.length = l.out.length + codes.length := by
  induction codes generalizing l with
  | nil => rfl
  | cons code codes ih => simp [ih, Nat.add_assoc, Nat.add_comm 1]

theorem lane_chunk_out_length (n : Nat) (blk : List Byte) (k c : Nat) (l : Lane) :
    (l.chunk n blk k c).out.length = l.out.length + 8 := by
  simp [Lane.chunk, foldl_laneStep_out_length, wordCodes]

/-- Chunk `k` of every channel: the body of the loop of `unpackBlock`. -/
def chunkLanes (n : Nat) (blk : List Byte) (lanes : List Lane) (k : Nat) : List Lane :=
  lanes.zipIdx.map (fun lc => lc.1.chunk n blk k lc.2)

theorem unpackBlock_eq_foldl (n : Nat) (blk : List Byte) :
    unpackBlock n blk = (List.range 8).foldl (chunkLanes n blk) ((List.range n).map (fun c => ⟨parseHeader blk c, []⟩)) :=
  rfl

/-- `n` lanes of `m` samples each. -/
def LanesFilled (n m : Nat) (lanes : List Lane) : Prop := lanes.length = n ∧ ∀ l ∈ lanes, l.out.length = m

theorem chunkLanes_lanesFilled {n m : Nat} {lanes : List Lane} (blk : List Byte) (k : Nat)
    (h : LanesFilled n m lanes) : LanesFilled n (m + 8) (chunkLanes n blk lanes k) := by
  obtain ⟨hlen, hout⟩ := h
  refine ⟨by simp [chunkLanes, hlen], fun l hl => ?_⟩
  obtain ⟨⟨l', c⟩, hmem, rfl⟩ := List.mem_map.mp hl
  rw [lane_chunk_out_length, hout l' (List.fst_mem_of_mem_zipIdx hmem)]

theorem foldl_chunkLanes_lanesFilled {n m : Nat} {lanes : List Lane} (blk : List Byte) (ks : List Nat)
    (h : LanesFilled n m lanes) : LanesFilled n (m + 8 * ks.length) (ks.foldl (chunkLanes n blk) lanes) := by
  induction ks generalizing m lanes with
  | nil => exact h
  | cons k ks ih =>
    have hlen : m + 8 * (k :: ks).length = m + 8 + 8 * ks.length := by rw [List.length_cons]; omega
    rw [hlen]
    exact ih (chunkLanes_lanesFilled blk k h)

theorem unpackBlock_lanesFilled (n : Nat) (blk : List Byte) : LanesFilled n 64 (unpackBlock n blk) := by
  have hstart : LanesFilled n 0 ((List.range n).map (fun c => ⟨parseHeader blk c, []⟩)) := ⟨by simp, by simp⟩
  rw [unpackBlock_eq_foldl]
  exact foldl_chunkLanes_lanesFilled blk (List.range 8) hstart

/-- A decoded block is one list of 64 samples a channel (R41, R156). -/
theorem decodeBlock_requestOk {n : Nat} (h1 : 1 ≤ n) (h8 : n ≤ 8) (blk : List Byte) :
    DecRequestOk (.write (decodeBlock n blk)) := by
  obtain ⟨hlen, hout⟩ := unpackBlock_lanesFilled n blk
  refine ⟨by simpa [decodeBlock, hlen], by simpa [decodeBlock, hlen], fun l hl => ?_⟩
  obtain ⟨lane, hmem, rfl⟩ := List.mem_map.mp hl
  exact hout lane hmem

/-- A body is eight chunks of four bytes a channel (R91). -/
theorem bodyBytes_length (codes : List (List Code)) : (bodyBytes codes).length = 8 * (codes.length * 4) := by
  have hchunk : ∀ k, (codes.flatMap (fun cs => chunkBytes cs k)).length = codes.length * 4 := by
    intro k
    simp [List.length_flatMap, chunkBytes]
  simp only [bodyBytes, List.length_flatMap, hchunk, List.map_const', List.sum_replicate, List.length_range,
    smul_eq_mul]

/-- A packed block is 36 bytes a channel: 4 of header and 32 of codes (R42, R193). -/
theorem packedBytes_length (e : Encoder) : e.packedBytes.length = blockBytes e.C.toNat := by
  have hheader : ∀ ch : Channel, ch.header.length = 4 := fun ch => rfl
  have hsum : e.packedBytes.length = e.C.toNat * 4 + 8 * (e.C.toNat * 4) := by
    simp [Encoder.packedBytes, blockOf, bodyBytes_length, List.length_flatten, Function.comp_def, hheader]
  rw [hsum, blockBytes, Config.blockBytesPerChannel]
  omega

/-! ## The decoder engine -/

theorem decoder_zero_ok : Decoder.zero.Ok := by
  unfold Decoder.Ok; decide

theorem decoder_check_eq_none {d : Decoder} (h : d.check = none) : d.cfg = true ∧ d.poison = false := by
  unfold Decoder.check at h
  split at h
  · cases h
  · split at h
    · cases h
    · simp_all

/-- A configured decoder between commands (R27, R29). -/
theorem decoder_ok_iff {d : Decoder} (hcfg : d.cfg = true) :
    d.Ok ↔ 1 ≤ d.C.toNat ∧ d.C.toNat ≤ 8 ∧ d.len ≤ blockBytes d.C.toNat ∧
      (d.poison = false → d.len < blockBytes d.C.toNat) := by
  simp [Decoder.Ok, hcfg]

theorem decoder_poisoned_ok {d : Decoder} (h : d.Ok) (hcfg : d.cfg = true) : ({ d with poison := true } : Decoder).Ok := by
  obtain ⟨hC1, hC8, hlen, -⟩ := (decoder_ok_iff hcfg).mp h
  exact (decoder_ok_iff (by exact hcfg)).mpr ⟨hC1, hC8, hlen, nofun⟩

/-- The byte loop keeps the decoder's invariant and writes whole blocks of samples only (R29, R156). -/
theorem decodeBytes_ok (bs : List Byte) {d : Decoder} {k : DecSink} (hd : d.Ok) (hcfg : d.cfg = true)
    (hpoison : d.poison = false) (hk : k.LogOk DecRequestOk) :
    (decodeBytes bs d k).1.Ok ∧ (decodeBytes bs d k).2.1.LogOk DecRequestOk := by
  induction bs generalizing d k with
  | nil => exact ⟨hd, hk⟩
  | cons b bs ih =>
    obtain ⟨hC1, hC8, -, hlen⟩ := (decoder_ok_iff hcfg).mp hd
    have hlen := hlen hpoison
    have hwrite : (k.ask (.write (decodeBlock d.C.toNat (d.push b).block))).1.LogOk DecRequestOk :=
      ask_logOk hk (decodeBlock_requestOk hC1 hC8 _) rfl
    obtain ⟨hopen, heq⟩ | ⟨-, -, heq⟩ | ⟨hfull, x, -, heq⟩ := decodeBytes_cons b bs d k
    · rw [heq]
      exact ih ((decoder_ok_iff (by exact hcfg)).mpr ⟨hC1, hC8, hlen, fun _ => lt_of_le_of_ne hlen hopen⟩) hcfg
        hpoison hk
    · rw [heq]
      refine ih ((decoder_ok_iff (by exact hcfg)).mpr ⟨hC1, hC8, Nat.zero_le _, fun _ => ?_⟩) hcfg hpoison hwrite
      exact Nat.mul_pos (by decide) hC1
    · rw [heq]
      exact ⟨(decoder_ok_iff (by exact hcfg)).mpr ⟨hC1, hC8, hfull.le, nofun⟩, hwrite⟩

/-! ## The encoder engine -/

theorem encoder_zero_ok : Encoder.zero.Ok :=
  ⟨by decide, nofun, encoder_zero_bankInRange⟩

theorem encoder_check_eq_none {e : Encoder} (h : e.check = none) : e.cfg = true ∧ e.poison = false := by
  unfold Encoder.check at h
  split at h
  · cases h
  · split at h
    · cases h
    · simp_all

/-- What the invariant says of a configured encoder beside `E.fill`, which leaves its range inside a command (R31, R34). -/
structure Encoder.Configured (e : Encoder) : Prop where
  cfg : e.cfg = true
  one_le : 1 ≤ e.C.toNat
  le_eight : e.C.toNat ≤ 8
  bank : BankInRange e.chan

theorem Encoder.Configured.ok {e : Encoder} (h : e.Configured) (h1 : 1 ≤ e.fill) (h65 : e.fill ≤ 65) : e.Ok :=
  ⟨fun hcfg => absurd (h.cfg.symm.trans hcfg) (by decide), fun _ => ⟨h.one_le, h.le_eight, h1, h65⟩, h.bank⟩

theorem Encoder.Ok.configured {e : Encoder} (h : e.Ok) (hcfg : e.cfg = true) : e.Configured := by
  obtain ⟨-, hrange, hbank⟩ := h
  obtain ⟨hC1, hC8, -, -⟩ := hrange hcfg
  exact ⟨hcfg, hC1, hC8, hbank⟩

theorem Encoder.Ok.fill_bounds {e : Encoder} (h : e.Ok) (hcfg : e.cfg = true) : 1 ≤ e.fill ∧ e.fill ≤ 65 := by
  obtain ⟨-, hrange, -⟩ := h
  obtain ⟨-, -, hfill⟩ := hrange hcfg
  exact hfill

theorem encoder_poisoned_ok {e : Encoder} (h : e.Ok) (hcfg : e.cfg = true) : ({ e with poison := true } : Encoder).Ok := by
  obtain ⟨-, hrange, hbank⟩ := h
  exact ⟨fun hc => absurd (hcfg.symm.trans hc) (by decide), hrange, hbank⟩

theorem Encoder.Configured.pushFrame {e : Encoder} (h : e.Configured) (f : List Sample) : (e.pushFrame f).Configured :=
  ⟨h.cfg, h.one_le, h.le_eight, updateChannels_bankInRange _ (fun _ _ hch => hch) h.bank⟩

theorem Encoder.Configured.pad {e : Encoder} (h : e.Configured) : e.pad.Configured :=
  ⟨h.cfg, h.one_le, h.le_eight, updateChannels_bankInRange _ (fun _ _ hch => by simpa using hch) h.bank⟩

theorem Encoder.Configured.resetSession_ok {e : Encoder} (h : e.Configured) : e.resetSession.Ok := by
  have hreset : e.resetSession.Configured :=
    ⟨h.cfg, h.one_le, h.le_eight, updateAll_bankInRange (fun _ hch => hch) h.bank⟩
  exact hreset.ok (by simp) (by simp)

theorem initPredictors_bankInRange {e : Encoder} (h : BankInRange e.chan) : BankInRange e.initPredictors.chan := by
  intro c hc
  change (e.initPredictors.channel c).pr.InRange
  rw [initPredictors_channel e c hc]
  split
  · exact seed_inRange _
  · exact h c hc

theorem Encoder.Configured.packBlock_ok {e : Encoder} (h : e.Configured) : e.packBlock.1.Ok := by
  have hbank : BankInRange e.packBlock.1.chan :=
    updateChannels_bankInRange _ (fun _ _ hch => coded_inRange _ hch) (initPredictors_bankInRange h.bank)
  have hpacked : e.packBlock.1.Configured :=
    ⟨by simpa using h.cfg, by simpa using h.one_le, by simpa using h.le_eight, hbank⟩
  exact hpacked.ok (by simp) (by simp)

theorem Encoder.Configured.packBlock_requestOk {e : Encoder} (h : e.Configured) : EncRequestOk (.write e.packBlock.2) := by
  refine ⟨e.C.toNat, h.one_le, h.le_eight, ?_⟩
  rw [← initPredictors_C e]
  exact packedBytes_length e.initPredictors

/-- A block emitted leaves the encoder as the invariant asks, poisoned or not (R193, R266). -/
theorem Encoder.Configured.emitBlock_ok {e : Encoder} {k : EncSink} (h : e.Configured) (hk : k.LogOk EncRequestOk) :
    (e.emitBlock k).1.Ok ∧ (e.emitBlock k).2.1.LogOk EncRequestOk := by
  have hwrite : (EncSink.ask (.write e.packBlock.2) k).1.LogOk EncRequestOk :=
    ask_logOk hk h.packBlock_requestOk rfl
  obtain ⟨-, heq⟩ | ⟨x, -, heq⟩ := emitBlock_cases e k
  · rw [heq]
    exact ⟨h.packBlock_ok, hwrite⟩
  · rw [heq]
    exact ⟨encoder_poisoned_ok h.packBlock_ok (by simpa using h.cfg), hwrite⟩

/-- The frame loop keeps the encoder's invariant and writes whole blocks of bytes only (R33, R193). -/
theorem encodeFrames_ok (fs : List (List Sample)) {e : Encoder} {k : EncSink} (he : e.Ok) (hcfg : e.cfg = true)
    (hk : k.LogOk EncRequestOk) :
    (encodeFrames fs e k).1.Ok ∧ (encodeFrames fs e k).2.1.LogOk EncRequestOk := by
  induction fs generalizing e k with
  | nil => exact ⟨he, hk⟩
  | cons f fs ih =>
    have hpush := (he.configured hcfg).pushFrame f
    obtain ⟨-, hfill⟩ := he.fill_bounds hcfg
    have hwrite : (EncSink.ask (.write (e.pushFrame f).packBlock.2) k).1.LogOk EncRequestOk :=
      ask_logOk hk hpush.packBlock_requestOk rfl
    obtain ⟨hopen, heq⟩ | ⟨-, -, heq⟩ | ⟨-, x, -, heq⟩ := encodeFrames_cons f fs e k
    · rw [heq]
      refine ih (hpush.ok ?_ ?_) hcfg hk
      · simp
      · simp only [pushFrame_fill]; omega
    · rw [heq]
      exact ih hpush.packBlock_ok (by simpa using hcfg) hwrite
    · rw [heq]
      exact ⟨encoder_poisoned_ok hpush.packBlock_ok (by simpa using hcfg), hwrite⟩

/-! ## The updates of the whole state -/

section
variable {s : State}

/-- The moves still to come are not part of the invariant. -/
theorem State.Inv.withInput (h : s.Inv) (input : List HostMove) : ({ s with input := input } : State).Inv :=
  { h with }

theorem cause_code_bounds (cause : Cause) : 1 ≤ cause.code.toNat ∧ cause.code.toNat ≤ 5 := by
  cases cause <;> decide

theorem State.Inv.raiseFault (h : s.Inv) (cause : Cause) (w : Item) : (raiseFault cause w s).Inv :=
  { h with global := ⟨fun _ => cause_code_bounds cause, nofun⟩ }

theorem State.Inv.complete (h : s.Inv) (r : Result) : (complete r s).Inv :=
  { h with }

theorem State.Inv.withDecoder {d : Decoder} {k : DecSink} (h : s.Inv) (hd : d.Ok) (hk : k.LogOk DecRequestOk) :
    ({ s with d := d, decSink := k } : State).Inv :=
  { h with decoder := hd, decLog := hk }

theorem State.Inv.withEncoder {e : Encoder} {k : EncSink} (h : s.Inv) (he : e.Ok) (hk : k.LogOk EncRequestOk) :
    ({ s with e := e, encSink := k } : State).Inv :=
  { h with encoder := he, encLog := hk }

theorem State.Inv.runCode (h : s.Inv) (code : Code) : (runCode code s).Inv :=
  { h with pair := advance_inRange _ _ }

theorem State.Inv.hardwareReset (h : s.Inv) : (hardwareReset s).Inv where
  global := ⟨nofun, fun _ => ⟨rfl, rfl⟩⟩
  decoder := decoder_zero_ok
  encoder := encoder_zero_ok
  decLog := h.decLog
  encLog := h.encLog
  pair := predictor_zero_inRange

end

/-! ## The commands -/

theorem guarded_inv {i : Instr} {check : Option Cause} {s t : State} {body : State → Host.Outcome State Fault Refusal}
    (hs : s.Inv) (hbody : check = none → body s = .next t → t.Inv) (h : guarded i check s body = .next t) : t.Inv := by
  obtain ⟨-, ⟨cause, -, rfl⟩ | ⟨hcheck, h⟩⟩ := guarded_next h
  · exact hs.raiseFault _ _
  · exact hbody hcheck h

theorem decodeCommand_inv (bytes : List Byte) {s : State} (hs : s.Inv) (hcheck : s.d.check = none) :
    (decodeCommand bytes s).Inv := by
  obtain ⟨hcfg, hpoison⟩ := decoder_check_eq_none hcheck
  unfold decodeCommand
  split
  · next k x hask =>
    have hlog := ask_logOk (r := .reserve _) hs.decLog trivial hask
    exact (hs.withDecoder (decoder_poisoned_ok hs.decoder hcfg) hlog).complete _
  · next k hask =>
    obtain ⟨hd, hk⟩ := decodeBytes_ok bytes hs.decoder hcfg hpoison (ask_logOk (r := .reserve _) hs.decLog trivial hask)
    exact (hs.withDecoder hd hk).complete _

theorem encodeCommand_inv (frames : List (List Sample)) {s : State} (hs : s.Inv) (hcheck : s.e.check = none) :
    (encodeCommand frames s).Inv := by
  obtain ⟨hcfg, -⟩ := encoder_check_eq_none hcheck
  unfold encodeCommand
  split
  · next k x hask =>
    have hlog := ask_logOk (r := .reserve _) hs.encLog trivial hask
    exact (hs.withEncoder (encoder_poisoned_ok hs.encoder hcfg) hlog).complete _
  · next k hask =>
    obtain ⟨he, hk⟩ := encodeFrames_ok frames hs.encoder hcfg (ask_logOk (r := .reserve _) hs.encLog trivial hask)
    exact (hs.withEncoder he hk).complete _

theorem finishCommand_inv {s : State} (hs : s.Inv) (hcheck : s.e.check = none) : (finishCommand s).Inv := by
  have hconf := hs.encoder.configured (encoder_check_eq_none hcheck).1
  unfold finishCommand
  split
  · have hemit := hconf.pad.emitBlock_ok hs.encLog
    have hcfg : (s.e.pad.emitBlock s.encSink).1.cfg = true := by
      obtain ⟨-, heq⟩ | ⟨x, -, heq⟩ := emitBlock_cases s.e.pad s.encSink <;> simpa [heq] using hconf.cfg
    split
    · next e k x heq =>
      rw [heq] at hemit
      exact (hs.withEncoder hemit.1 hemit.2).complete _
    · next e k heq =>
      rw [heq] at hemit hcfg
      exact (hs.withEncoder (hemit.1.configured hcfg).resetSession_ok hemit.2).complete _
  · exact (hs.withEncoder hconf.resetSession_ok hs.encLog).complete _

/-- A channel count that passes the check of R150 and R180 fits its 4-bit register. -/
theorem toNat_ofNat_of_legalChannelCount {ch : Nat}
    (h : (if legalChannelCount ch then none else some Cause.badChannelCount) = none) :
    1 ≤ (BitVec.ofNat 4 ch).toNat ∧ (BitVec.ofNat 4 ch).toNat ≤ 8 := by
  have hlegal : legalChannelCount ch = true := by
    by_contra hn
    simp [hn] at h
  simp only [legalChannelCount, Bool.and_eq_true, decide_eq_true_eq, Config.maxChannels] at hlegal
  rw [BitVec.toNat_ofNat]
  omega

theorem execDecInit_inv {ch : Nat} {s t : State} (hs : s.Inv) (h : execDecInit ch s = .next t) : t.Inv := by
  refine guarded_inv hs (fun hcheck hbody => ?_) h
  cases hbody
  obtain ⟨hC1, hC8⟩ := toNat_ofNat_of_legalChannelCount hcheck
  refine (hs.withDecoder (k := s.decSink) ?_ hs.decLog).complete _
  exact (decoder_ok_iff rfl).mpr ⟨hC1, hC8, Nat.zero_le _, fun _ => Nat.mul_pos (by decide) hC1⟩

theorem execDecData_inv {len : Nat} {s t : State} (hs : s.Inv) (h : execDecData len s = .next t) : t.Inv := by
  refine guarded_inv hs (fun hcheck hbody => ?_) h
  split at hbody
  · cases hbody
  · next items rest _ =>
    cases hbody
    exact decodeCommand_inv _ (hs.withInput rest) hcheck

theorem execEncInit_inv {ch la : Nat} {s t : State} (hs : s.Inv) (h : execEncInit ch la s = .next t) : t.Inv := by
  refine guarded_inv hs (fun hcheck hbody => ?_) h
  cases hbody
  obtain ⟨hC1, hC8⟩ := toNat_ofNat_of_legalChannelCount hcheck
  obtain ⟨-, -, hbank⟩ := hs.encoder
  refine (hs.withEncoder (k := s.encSink) (Encoder.Configured.ok ⟨rfl, hC1, hC8, ?_⟩ ?_ ?_) hs.encLog).complete _
  · exact updateAll_bankInRange (fun _ _ => predictor_zero_inRange) hbank
  · exact le_rfl
  · exact Nat.succ_le_succ (Nat.zero_le 64)

theorem takeFrames_inv {n : Nat} {s t : State} (hs : s.Inv) (hcheck : s.e.check = none)
    (h : takeFrames n s = .next t) : t.Inv := by
  unfold takeFrames at h
  split at h
  · cases h
  · next items rest _ =>
    cases h
    exact encodeCommand_inv _ (hs.withInput rest) hcheck

theorem execEncData_inv {narr : Nat} {s t : State} (hs : s.Inv) (h : execEncData narr s = .next t) : t.Inv := by
  refine guarded_inv hs (fun hcheck hbody => ?_) h
  split at hbody
  · cases hbody
  · next lens rest _ =>
    split at hbody
    · exact takeFrames_inv (hs.withInput rest) hcheck hbody
    · cases hbody
      exact (hs.withInput rest).raiseFault _ _

theorem execEncFinish_inv {s t : State} (hs : s.Inv) (h : execEncFinish s = .next t) : t.Inv := by
  refine guarded_inv hs (fun hcheck hbody => ?_) h
  cases hbody
  exact finishCommand_inv hs hcheck

theorem execEncReset_inv {s t : State} (hs : s.Inv) (h : execEncReset s = .next t) : t.Inv := by
  refine guarded_inv hs (fun hcheck hbody => ?_) h
  cases hbody
  have hconf := hs.encoder.configured (encoder_check_eq_none hcheck).1
  exact (hs.withEncoder hconf.resetSession_ok hs.encLog).complete _

/-- Every instruction that answers a next state keeps the invariant. -/
theorem exec_inv {i : Instr} {s t : State} (hs : s.Inv) (h : exec i s = .next t) : t.Inv := by
  by_cases hcode : isCommand i = false
  · obtain ⟨c, -, hc⟩ := exec_code hcode s
    cases hc.symm.trans h
    exact hs.runCode c
  · cases i with
    | decInit ch => exact execDecInit_inv hs h
    | decData len => exact execDecData_inv hs h
    | encInit ch la => exact execEncInit_inv hs h
    | encData narr => exact execEncData_inv hs h
    | encFinish => exact execEncFinish_inv hs h
    | encReset => exact execEncReset_inv hs h
    | _ => exact absurd rfl hcode

/-! ## The obligations -/

/-- Settles O60, by what a step can do: each engine's loop keeps its own part of the invariant. -/
theorem everyStepKeepsTheInvariant : Obligations.EveryStepKeepsTheInvariant := by
  unfold Obligations.EveryStepKeepsTheInvariant
  intro s t hs h
  obtain ⟨rest, -, rfl⟩ | ⟨m, rest, -, -, -, rfl⟩ | ⟨-, -, rfl⟩ | ⟨w, rest, err, -, -, -, rfl⟩ |
    ⟨w, rest, i, -, -, -, hexec⟩ | ⟨c, rest, -, -, hexec⟩ := step_next h
  · exact (hs.withInput rest).hardwareReset
  · exact hs.withInput rest
  · exact hs
  · exact (hs.withInput rest).raiseFault _ _
  · exact exec_inv (hs.withInput rest) hexec
  · exact exec_inv (hs.withInput rest) hexec

/-- Settles O59: both engines are unconfigured and no request has been made. -/
theorem invariantHoldsAtReset : Obligations.InvariantHoldsAtReset where
  global := ⟨nofun, fun _ => ⟨rfl, rfl⟩⟩
  decoder := decoder_zero_ok
  encoder := encoder_zero_ok
  decLog := nofun
  encLog := nofun
  pair := predictor_zero_inRange

end Sys2Proof.Machine
end

section
/-! PROOFS. How a command ends: the result it gives or the fault it takes, and the word that fault records (O55, O52). -/

namespace Sys2Proof.Machine
open Sys2Proof.Claims

/-! ## What a command leaves in `G` and on the result port -/

/-- A command that answers a next state took a fault under its own word and gave no result, or left `G` alone and gave one
(R40, R262). -/
theorem exec_command_g_results {i : Instr} {s t : State} (hi : isCommand i = true) (h : exec i s = .next t) :
    (∃ cause, t.g = ⟨true, Cause.code cause, cmdWord i⟩ ∧ t.results = s.results) ∨
    (t.g = s.g ∧ ∃ r, t.results = s.results ++ [r]) := by
  obtain hdec | henc := (Bool.or_eq_true _ _).mp hi
  · obtain ⟨cause, rfl⟩ | ⟨input, d, k, r, rfl⟩ := exec_decCommand_next hdec h
    · exact .inl ⟨cause, rfl, rfl⟩
    · exact .inr ⟨rfl, r, rfl⟩
  · obtain ⟨cause, input, rfl⟩ | ⟨input, e, k, r, rfl⟩ := exec_encCommand_next henc h
    · exact .inl ⟨cause, rfl, rfl⟩
    · exact .inr ⟨rfl, r, rfl⟩

/-- An instruction that halts the core records its own word (R20, R262). -/
theorem exec_fault_faultCmd {i : Instr} {s t : State} (hs : s.g.halted = false) (h : exec i s = .next t)
    (ht : t.g.halted = true) : t.g.faultCmd = cmdWord i := by
  have hne : t.g ≠ s.g := fun hg => by rw [hg, hs] at ht; cases ht
  cases hi : isCommand i with
  | false =>
    obtain ⟨c, -, hc⟩ := exec_code hi s
    cases hc.symm.trans h
    exact absurd rfl hne
  | true =>
    obtain ⟨cause, hg, -⟩ | ⟨hg, -⟩ := exec_command_g_results hi h
    · rw [hg]
    · exact absurd hg hne

/-! ## A decoded word is the encoding of its instruction (R88) -/

/-- Where a mask is all ones, a word has the bits of the row's pattern. -/
theorem extractLsb'_of_masked {w mask pattern : Item} (h : w &&& mask = pattern) (start len : Nat)
    (hmask : mask.extractLsb' start len = BitVec.allOnes len) :
    w.extractLsb' start len = pattern.extractLsb' start len := by
  rw [← h, BitVec.extractLsb'_and, hmask, BitVec.and_allOnes]

/-- A word of a row whose one operand is `w[15:8]`: DEC_INIT and ENC_DATA (R81). -/
theorem word_of_chMask {w pattern : Item} (h : w &&& 0xFFFF00FF#32 = pattern) :
    pattern.extractLsb' 16 16 ++ BitVec.ofNat 8 (fieldCh w) ++ pattern.extractLsb' 0 8 = w := by
  rw [← extractLsb'_of_masked h 16 16 (by decide), ← extractLsb'_of_masked h 0 8 (by decide), fieldCh,
    BitVec.ofNat_toNat, BitVec.setWidth_eq, BitVec.extractLsb'_append_extractLsb'_eq_extractLsb' (by rfl)]
  exact BitVec.extractLsb'_append_extractLsb'

/-- A word of a row whose operands are `w[23:16]` and `w[15:8]`: ENC_INIT (R81). -/
theorem word_of_laChMask {w pattern : Item} (h : w &&& 0xFF0000FF#32 = pattern) :
    pattern.extractLsb' 24 8 ++ BitVec.ofNat 8 (fieldLa w) ++ BitVec.ofNat 8 (fieldCh w) ++
      pattern.extractLsb' 0 8 = w := by
  rw [← extractLsb'_of_masked h 24 8 (by decide), ← extractLsb'_of_masked h 0 8 (by decide), fieldLa, fieldCh,
    BitVec.ofNat_toNat, BitVec.setWidth_eq, BitVec.ofNat_toNat, BitVec.setWidth_eq,
    BitVec.extractLsb'_append_extractLsb'_eq_extractLsb' (by rfl),
    BitVec.extractLsb'_append_extractLsb'_eq_extractLsb' (by rfl)]
  exact BitVec.extractLsb'_append_extractLsb'

/-- A word of a row whose one operand is `w[31:8]`: DEC_DATA (R81). -/
theorem word_of_lenMask {w pattern : Item} (h : w &&& 0x000000FF#32 = pattern) :
    BitVec.ofNat 24 (fieldLen w) ++ pattern.extractLsb' 0 8 = w := by
  rw [← extractLsb'_of_masked h 0 8 (by decide), fieldLen, BitVec.ofNat_toNat, BitVec.setWidth_eq]
  exact BitVec.extractLsb'_append_extractLsb'

/-- A word of a row with no operand: ENC_FINISH and ENC_RESET (R81). -/
theorem word_of_fullMask {w pattern : Item} (h : w &&& 0xFFFFFFFF#32 = pattern) : pattern = w := by
  have hword := extractLsb'_of_masked h 0 32 (by decide)
  rw [BitVec.extractLsb'_eq_self, BitVec.extractLsb'_eq_self] at hword
  exact hword.symm

/-- A word of a command row is the encoding of the instruction that the row builds from it (R81, R88). -/
theorem encode_build_of_matches {r : CmdRow} {w : Item} (hr : r ∈ cmdRows) (hw : r.matches w = true) :
    encode (r.build w) = .cmd w := by
  have hmask : w &&& r.mask = r.pattern := by simpa [CmdRow.matches] using hw
  simp only [cmdRows, List.mem_cons, List.not_mem_nil, or_false] at hr
  obtain rfl | rfl | rfl | rfl | rfl | rfl := hr
  · have hword := word_of_chMask hmask
    exact congrArg InstrWord.cmd hword
  · have hword := word_of_lenMask hmask
    exact congrArg InstrWord.cmd hword
  · have hword := word_of_laChMask hmask
    exact congrArg InstrWord.cmd hword
  · have hword := word_of_chMask hmask
    exact congrArg InstrWord.cmd hword
  · have hword := word_of_fullMask hmask
    exact congrArg InstrWord.cmd hword
  · have hword := word_of_fullMask hmask
    exact congrArg InstrWord.cmd hword

theorem encode_of_decode_cmd {w : Item} {i : Instr} (h : decode (.cmd w) = .ok i) : encode i = .cmd w := by
  simp only [decode, decodeCmd] at h
  split at h
  · next r hfind =>
    cases h
    have hmatch := List.find?_some hfind
    exact encode_build_of_matches (List.mem_of_find?_eq_some hfind) hmatch
  · cases h

theorem cmdWord_of_decode_cmd {w : Item} {i : Instr} (h : decode (.cmd w) = .ok i) : cmdWord i = w := by
  simp [cmdWord, encode_of_decode_cmd h]

/-! ## The obligations -/

/-- Settles O55: a fault halts the core and gives no result, a completion leaves `G` alone and gives one. -/
theorem oneResultPerCommand : Obligations.OneResultPerCommand := by
  unfold Obligations.OneResultPerCommand
  intro i s t hi h
  obtain ⟨cause, hg, hresults⟩ | hdone := exec_command_g_results hi h
  · exact .inl ⟨by rw [hg], hresults⟩
  · exact .inr hdone

/-- Settles O52: an illegal word is recorded as taken, and a command's own word is the word it was decoded from. -/
theorem faultRecordsTheWordTaken : Obligations.FaultRecordsTheWordTaken := by
  unfold Obligations.FaultRecordsTheWordTaken
  intro s t w rest hs hinput h ht
  obtain ⟨_, hin, -⟩ | ⟨_, _, -, -, hhalted, -⟩ | ⟨hin, -⟩ | ⟨w', rest', err, hin, -, -, rfl⟩ |
    ⟨w', rest', i, hin, -, hdecode, hexec⟩ | ⟨_, _, hin, -⟩ := step_next h
  · cases hinput.symm.trans hin
  · cases hs.symm.trans hhalted
  · cases hinput.symm.trans hin
  · cases hinput.symm.trans hin
    rfl
  · cases hinput.symm.trans hin
    rw [exec_fault_faultCmd (by exact hs) hexec ht, cmdWord_of_decode_cmd hdecode]
  · cases hinput.symm.trans hin

end Sys2Proof.Machine
end

section
/-! PROOFS. Who may write an engine's configuration: every instruction but that engine's INIT keeps it, and no step clears a
poison bit otherwise (O54). -/

namespace Sys2Proof.Machine
open Sys2Proof.Claims

/-! ## Keeping a configuration -/

/-- The decoder keeps its configured bit and channel count, and stays poisoned if it was (R26, R27, R30). -/
structure Decoder.KeepsConfig (d d' : Decoder) : Prop where
  cfg : d'.cfg = d.cfg
  C : d'.C = d.C
  poison : d.poison = true → d'.poison = true

theorem Decoder.KeepsConfig.of_eq {d d' : Decoder} (h : d' = d) : d.KeepsConfig d' := by
  subst h; exact ⟨rfl, rfl, id⟩

/-- The encoder keeps its configured bit, channel count and lookahead. -/
structure Encoder.SameConfig (e e' : Encoder) : Prop where
  cfg : e'.cfg = e.cfg
  C : e'.C = e.C
  L : e'.L = e.L

/-- The encoder keeps its configuration, and stays poisoned if it was (R34, R35). -/
structure Encoder.KeepsConfig (e e' : Encoder) : Prop extends Encoder.SameConfig e e' where
  poison : e.poison = true → e'.poison = true

theorem Encoder.KeepsConfig.of_eq {e e' : Encoder} (h : e' = e) : e.KeepsConfig e' := by
  subst h; exact ⟨⟨rfl, rfl, rfl⟩, id⟩

/-! ## The commands that work on a configured engine -/

theorem decodeCommand_config (bytes : List Byte) (s : State) :
    (decodeCommand bytes s).d.cfg = s.d.cfg ∧ (decodeCommand bytes s).d.C = s.d.C := by
  unfold decodeCommand
  split
  · exact ⟨rfl, rfl⟩
  · exact decodeBytes_config _ s.d _

/-- DEC_DATA keeps the decoder's configuration; on a poisoned decoder it faults (R158, R267). -/
theorem execDecData_keepsConfig {len : Nat} {s t : State} (h : execDecData len s = .next t) : s.d.KeepsConfig t.d := by
  obtain ⟨-, ⟨cause, -, rfl⟩ | ⟨hcheck, hbody⟩⟩ := guarded_next h
  · exact .of_eq rfl
  · obtain ⟨-, hpoison⟩ := decoder_check_eq_none hcheck
    split at hbody
    · cases hbody
    · next items rest _ =>
      cases hbody
      obtain ⟨hcfg, hC⟩ := decodeCommand_config (items.map itemByte) { s with input := rest }
      exact ⟨hcfg, hC, fun hp => absurd (hp.symm.trans hpoison) (by decide)⟩

/-- A command of a configured encoder keeps its poison bit, since on a poisoned encoder it faults (R264, R267). -/
theorem guarded_encoder_keepsConfig {i : Instr} {s t : State} {body : State → Host.Outcome State Fault Refusal}
    (hbody : body s = .next t → s.e.SameConfig t.e) (h : guarded i s.e.check s body = .next t) : s.e.KeepsConfig t.e := by
  obtain ⟨-, ⟨cause, -, rfl⟩ | ⟨hcheck, h⟩⟩ := guarded_next h
  · exact .of_eq rfl
  · obtain ⟨-, hpoison⟩ := encoder_check_eq_none hcheck
    exact ⟨hbody h, fun hp => absurd (hp.symm.trans hpoison) (by decide)⟩

theorem encodeCommand_sameConfig (frames : List (List Sample)) (s : State) :
    s.e.SameConfig (encodeCommand frames s).e := by
  unfold encodeCommand
  split
  · exact ⟨rfl, rfl, rfl⟩
  · next k _ =>
    obtain ⟨hcfg, hC, hL⟩ := encodeFrames_config frames s.e k
    exact ⟨hcfg, hC, hL⟩

theorem emitBlock_sameConfig (e : Encoder) (k : EncSink) : e.SameConfig (e.emitBlock k).1 := by
  obtain ⟨-, heq⟩ | ⟨x, -, heq⟩ := emitBlock_cases e k
  · rw [heq]
    exact ⟨packBlock_cfg e, packBlock_C e, packBlock_L e⟩
  · rw [heq]
    exact ⟨packBlock_cfg e, packBlock_C e, packBlock_L e⟩

theorem finishCommand_sameConfig (s : State) : s.e.SameConfig (finishCommand s).e := by
  obtain ⟨hcfg, hC, hL⟩ := emitBlock_sameConfig s.e.pad s.encSink
  unfold finishCommand
  split
  · split
    · next heq =>
      rw [heq] at hcfg hC hL
      exact ⟨hcfg, hC, hL⟩
    · next heq =>
      rw [heq] at hcfg hC hL
      exact ⟨hcfg, hC, hL⟩
  · exact ⟨rfl, rfl, rfl⟩

theorem takeFrames_sameConfig {n : Nat} {s t : State} (h : takeFrames n s = .next t) : s.e.SameConfig t.e := by
  unfold takeFrames at h
  split at h
  · cases h
  · next items rest _ =>
    cases h
    exact encodeCommand_sameConfig _ { s with input := rest }

theorem execEncData_keepsConfig {narr : Nat} {s t : State} (h : execEncData narr s = .next t) :
    s.e.KeepsConfig t.e := by
  refine guarded_encoder_keepsConfig (fun hbody => ?_) h
  split at hbody
  · cases hbody
  · next lens rest _ =>
    split at hbody
    · exact takeFrames_sameConfig (s := { s with input := rest }) hbody
    · cases hbody
      exact ⟨rfl, rfl, rfl⟩

theorem execEncFinish_keepsConfig {s t : State} (h : execEncFinish s = .next t) : s.e.KeepsConfig t.e := by
  refine guarded_encoder_keepsConfig (fun hbody => ?_) h
  cases hbody
  exact finishCommand_sameConfig s

theorem execEncReset_keepsConfig {s t : State} (h : execEncReset s = .next t) : s.e.KeepsConfig t.e := by
  refine guarded_encoder_keepsConfig (fun hbody => ?_) h
  cases hbody
  exact ⟨rfl, rfl, rfl⟩

/-! ## Every instruction -/

theorem exec_d_of_not_decCommand {i : Instr} {s t : State} (hi : isDecCommand i = false) (h : exec i s = .next t) :
    t.d = s.d := by
  obtain ⟨-, henc, hcode⟩ := enginesDoNotInteract i s t h
  cases hi' : isEncCommand i with
  | true => exact (henc hi').1
  | false => rw [hcode (by simp [isCommand, hi, hi'])]

theorem exec_e_of_not_encCommand {i : Instr} {s t : State} (hi : isEncCommand i = false) (h : exec i s = .next t) :
    t.e = s.e := by
  obtain ⟨hdec, -, hcode⟩ := enginesDoNotInteract i s t h
  cases hi' : isDecCommand i with
  | true => exact (hdec hi').1
  | false => rw [hcode (by simp [isCommand, hi, hi'])]

theorem exec_decoder_keepsConfig {i : Instr} {s t : State} (h : exec i s = .next t) (hi : ∀ ch, i ≠ .decInit ch) :
    s.d.KeepsConfig t.d := by
  cases hdec : isDecCommand i with
  | false => exact .of_eq (exec_d_of_not_decCommand hdec h)
  | true =>
    cases i with
    | decInit ch => exact absurd rfl (hi ch)
    | decData len => exact execDecData_keepsConfig h
    | _ => cases hdec

theorem exec_encoder_keepsConfig {i : Instr} {s t : State} (h : exec i s = .next t)
    (hi : ∀ ch la, i ≠ .encInit ch la) : s.e.KeepsConfig t.e := by
  cases henc : isEncCommand i with
  | false => exact .of_eq (exec_e_of_not_encCommand henc h)
  | true =>
    cases i with
    | encInit ch la => exact absurd rfl (hi ch la)
    | encData narr => exact execEncData_keepsConfig h
    | encFinish => exact execEncFinish_keepsConfig h
    | encReset => exact execEncReset_keepsConfig h
    | _ => cases henc

theorem decodeCode_not_command (c : Code) : isCommand (decodeCode c) = false := by
  revert c; decide

/-! ## The obligation -/

/-- A step as the engines see it: a hardware reset, nothing, or an instruction that, if a command, is the one decoded from
the word taken. -/
theorem step_engines {s t : State} (h : step s = .next t) :
    (∃ rest, s.input = .reset :: rest) ∨ (t.d = s.d ∧ t.e = s.e) ∨
    (∃ i rest, exec i { s with input := rest } = .next t ∧
      (isCommand i = true → ∃ w, s.input = .item w :: rest ∧ decode (.cmd w) = .ok i)) := by
  obtain ⟨rest, hin, -⟩ | ⟨m, rest, -, -, -, rfl⟩ | ⟨-, -, rfl⟩ | ⟨w, rest, err, -, -, -, rfl⟩ |
    ⟨w, rest, i, hin, -, hdecode, hexec⟩ | ⟨c, rest, -, -, hexec⟩ := step_next h
  · exact .inl ⟨rest, hin⟩
  · exact .inr (.inl ⟨rfl, rfl⟩)
  · exact .inr (.inl ⟨rfl, rfl⟩)
  · exact .inr (.inl ⟨rfl, rfl⟩)
  · exact .inr (.inr ⟨i, rest, hexec, fun _ => ⟨w, hin, hdecode⟩⟩)
  · refine .inr (.inr ⟨_, rest, hexec, fun hi => ?_⟩)
    cases (decodeCode_not_command c).symm.trans hi

theorem step_decoder_keepsConfig {s t : State} (h : step s = .next t) :
    (∃ rest, s.input = .reset :: rest) ∨
    (∃ w rest ch, s.input = .item w :: rest ∧ decode (.cmd w) = .ok (.decInit ch)) ∨ s.d.KeepsConfig t.d := by
  obtain hreset | ⟨hd, -⟩ | ⟨i, rest, hexec, htaken⟩ := step_engines h
  · exact .inl hreset
  · exact .inr (.inr (.of_eq hd))
  · by_cases hinit : ∃ ch, i = .decInit ch
    · obtain ⟨ch, rfl⟩ := hinit
      obtain ⟨w, hin, hdecode⟩ := htaken rfl
      exact .inr (.inl ⟨w, rest, ch, hin, hdecode⟩)
    · exact .inr (.inr (exec_decoder_keepsConfig (s := { s with input := rest }) hexec (fun ch hi => hinit ⟨ch, hi⟩)))

theorem step_encoder_keepsConfig {s t : State} (h : step s = .next t) :
    (∃ rest, s.input = .reset :: rest) ∨
    (∃ w rest ch la, s.input = .item w :: rest ∧ decode (.cmd w) = .ok (.encInit ch la)) ∨ s.e.KeepsConfig t.e := by
  obtain hreset | ⟨-, he⟩ | ⟨i, rest, hexec, htaken⟩ := step_engines h
  · exact .inl hreset
  · exact .inr (.inr (.of_eq he))
  · by_cases hinit : ∃ ch la, i = .encInit ch la
    · obtain ⟨ch, la, rfl⟩ := hinit
      obtain ⟨w, hin, hdecode⟩ := htaken rfl
      exact .inr (.inl ⟨w, rest, ch, la, hin, hdecode⟩)
    · exact .inr (.inr
        (exec_encoder_keepsConfig (s := { s with input := rest }) hexec (fun ch la hi => hinit ⟨ch, la, hi⟩)))

/-- Settles O54: a step that is neither a reset nor the engine's INIT keeps the engine's configuration. -/
theorem configurationChangesOnlyByInit : Obligations.ConfigurationChangesOnlyByInit := by
  unfold Obligations.ConfigurationChangesOnlyByInit
  intro s t h
  refine ⟨fun hchange => ?_, fun hchange => ?_⟩
  · obtain hreset | hinit | ⟨hcfg, hC, hpoison⟩ := step_decoder_keepsConfig h
    · exact .inl hreset
    · exact .inr hinit
    · obtain hne | hne | ⟨hp, hp'⟩ := hchange
      · exact absurd hC hne
      · exact absurd hcfg hne
      · cases (hpoison hp).symm.trans hp'
  · obtain hreset | hinit | ⟨⟨hcfg, hC, hL⟩, hpoison⟩ := step_encoder_keepsConfig h
    · exact .inl hreset
    · exact .inr hinit
    · obtain hne | hne | hne | ⟨hp, hp'⟩ := hchange
      · exact absurd hC hne
      · exact absurd hL hne
      · exact absurd hcfg hne
      · cases (hpoison hp).symm.trans hp'

end Sys2Proof.Machine
end

section
/-! PROOFS. The step on a taken word or code, the state after hardware reset, and the status outputs (O5, O9, O10). -/

namespace Sys2Proof.Machine
open Sys2Proof.Claims

/-! ## What a step fetches -/

theorem fetch_item {s : State} {w : Item} {rest : List HostMove} (hs : s.g.halted = false)
    (hinput : s.input = .item w :: rest) : fetch s = takeWord w { s with input := rest } := by
  simp [fetch, hinput, hs]

theorem fetch_code {s : State} {c : Code} {rest : List HostMove} (hs : s.g.halted = false)
    (hinput : s.input = .code c :: rest) : fetch s = .execute (decodeCode c) { s with input := rest } := by
  simp [fetch, hinput, hs]

theorem takeWord_of_decode {w : Item} {i : Instr} (s : State) (h : decode (.cmd w) = .ok i) :
    takeWord w s = .execute i s := by
  simp [takeWord, h]

theorem step_of_fetch {s t : State} {i : Instr} (h : fetch s = .execute i t) : step s = exec i t := by
  simp [step, h]

/-! ## The fields of `STATUS` -/

/-- `STATUS` field by field, each at its own width, bit 31 first (R37). -/
theorem status_extractLsb' (s : State) (start len : Nat) :
    s.status.extractLsb' start len = BitVec.extractLsb' start len
      (s.e.L ++ s.e.C ++ s.d.C ++ 0#3 ++ BitVec.ofBool s.e.pinit ++ BitVec.ofBool s.e.poison ++
        BitVec.ofBool s.d.poison ++ BitVec.ofBool s.e.cfg ++ BitVec.ofBool s.d.cfg ++ s.g.faultCause ++ 0#3 ++
        BitVec.ofBool s.g.halted) := rfl

theorem status_reset : State.reset.status = 0 := by decide

/-! ## The obligations -/

/-- Settles O5: a core that is not halted fetches the instruction decoded from the move it takes. -/
theorem stepRunsTheDecodedInstruction : Obligations.StepRunsTheDecodedInstruction := by
  unfold Obligations.StepRunsTheDecodedInstruction
  refine ⟨fun s w rest i hs hinput hdecode => ?_, fun s c rest hs hinput => ?_⟩
  · exact step_of_fetch ((fetch_item hs hinput).trans (takeWord_of_decode _ hdecode))
  · exact step_of_fetch (fetch_code hs hinput)

/-- Settles O9: the fields of R43 one by one, the eight pairs by the zero channel. -/
theorem resetStateValues : Obligations.ResetStateValues := by
  unfold Obligations.ResetStateValues
  refine ⟨rfl, rfl, rfl, rfl, rfl, rfl, rfl, rfl, rfl, rfl, rfl, fun c hc => ?_, status_reset, rfl⟩
  have hch : State.reset.e.channel c = Channel.zero := channelOf_encoder_zero hc
  rw [hch]
  exact ⟨rfl, rfl⟩

/-- Settles O10: a field of `STATUS` is read by skipping the fields below it. -/
theorem statusShowsTheFields : Obligations.StatusShowsTheFields := by
  unfold Obligations.StatusShowsTheFields
  refine ⟨status_reset, rfl, fun s => ?_⟩
  simp (disch := decide) only [status_extractLsb', BitVec.extractLsb'_append_eq_of_le,
    BitVec.extractLsb'_append_eq_right, BitVec.extractLsb'_eq_self, Nat.reduceSub, State.faultCmdReg,
    BitVec.ofNat_eq_ofNat, and_self]

end Sys2Proof.Machine
end

section
/-! PROOFS. What the two engines' loops share when every request is answered OK: a sink after a list of requests, and a
loop that takes its items one by one and now and then writes. -/

namespace Sys2Proof.Machine
open Sys2Proof.Claims

/-! ## A sink after a list of requests -/

section
variable {α : Type} {free : Nat → Answer} {k : SinkPort α}

/-- A sink port after the requests `rs`, whatever it answered. -/
def SinkPort.askAll (free : Nat → Answer) (rs : List (Request α)) (k : SinkPort α) : SinkPort α :=
  rs.foldl (fun k r => (k.ask free r).1) k

@[simp] theorem askAll_nil : k.askAll free [] = k := rfl

@[simp] theorem askAll_cons (r : Request α) (rs : List (Request α)) :
    k.askAll free (r :: rs) = (k.ask free r).1.askAll free rs := rfl

@[simp] theorem askAll_log (rs : List (Request α)) : (k.askAll free rs).log = k.log ++ rs := by
  induction rs generalizing k with
  | nil => simp
  | cons r rs ih => simp [ih]

theorem askAll_answerAt (rs : List (Request α)) (i : Nat) :
    (k.askAll free rs).answerAt free i = k.answerAt free (rs.length + i) := by
  induction rs generalizing k with
  | nil => simp
  | cons r rs ih => rw [askAll_cons, ih, ask_answerAt, List.length_cons, Nat.add_right_comm]

/-- The sink answers its next `n` requests OK: `DecAnswersOk` and `EncAnswersOk` for either port (R272). -/
def SinkPort.AnswersOk (free : Nat → Answer) (k : SinkPort α) (n : Nat) : Prop :=
  ∀ i, i < n → k.answerAt free i = .ok

theorem SinkPort.AnswersOk.mono {m n : Nat} (h : k.AnswersOk free n) (hmn : m ≤ n) : k.AnswersOk free m :=
  fun i hi => h i (hi.trans_le hmn)

theorem SinkPort.AnswersOk.ask_ok {n : Nat} (h : k.AnswersOk free (n + 1)) (r : Request α) :
    (k.ask free r).2 = .ok := by
  rw [ask_answer]
  exact h 0 n.succ_pos

theorem SinkPort.AnswersOk.askAll {n : Nat} {rs : List (Request α)} (h : k.AnswersOk free (rs.length + n)) :
    (k.askAll free rs).AnswersOk free n := by
  intro i hi
  rw [askAll_answerAt]
  exact h _ (Nat.add_lt_add_left hi _)

theorem SinkPort.AnswersOk.ask {n : Nat} (h : k.AnswersOk free (n + 1)) (r : Request α) :
    (k.ask free r).1.AnswersOk free n := by
  rw [Nat.add_comm] at h
  exact h.askAll (rs := [r])

end

/-! ## The writes of a log -/

theorem writesOf_append {α : Type} (rs rs' : List (Request α)) :
    writesOf (rs ++ rs') = writesOf rs ++ writesOf rs' := by
  induction rs with
  | nil => rfl
  | cons r rs ih => cases r <;> simp [writesOf, ih]

theorem writesOf_map_write {α : Type} (ws : List α) : writesOf (ws.map .write) = ws := by
  induction ws with
  | nil => rfl
  | cons w ws ih => simp [writesOf, ih]

/-! ## The requests of a data command: one reserve, then its writes (R151, R181) -/

section
variable {α : Type} {free : Nat → Answer} {k : SinkPort α}

/-- A sink port after a data command that reserved `count` and wrote `ws`. -/
def SinkPort.afterData (free : Nat → Answer) (count : Nat) (ws : List α) (k : SinkPort α) : SinkPort α :=
  k.askAll free (.reserve count :: ws.map .write)

theorem SinkPort.AnswersOk.afterData {ws : List α} {n : Nat} (h : k.AnswersOk free (ws.length + 1 + n)) (count : Nat) :
    (k.afterData free count ws).AnswersOk free n :=
  SinkPort.AnswersOk.askAll (by simpa using h)

@[simp] theorem writesOf_afterData (count : Nat) (ws : List α) :
    writesOf (k.afterData free count ws).log = writesOf k.log ++ ws := by
  simp [SinkPort.afterData, writesOf_append, writesOf, writesOf_map_write]

end

/-! ## A loop that writes now and then -/

section
variable {σ ι β : Type} {step : σ → ι → σ × Option β}

/-- A loop over items each of which leaves an engine state and perhaps a write: the state at the end, and the payloads
written. -/
def loopWrites (step : σ → ι → σ × Option β) : List ι → σ → σ × List β
  | [], e => (e, [])
  | x :: xs, e =>
    let r := loopWrites step xs (step e x).1
    (r.1, (step e x).2.toList ++ r.2)

@[simp] theorem loopWrites_nil (e : σ) : loopWrites step [] e = (e, []) := rfl

@[simp] theorem loopWrites_cons (x : ι) (xs : List ι) (e : σ) :
    loopWrites step (x :: xs) e =
      ((loopWrites step xs (step e x).1).1, (step e x).2.toList ++ (loopWrites step xs (step e x).1).2) := rfl

theorem loopWrites_cons_none {x : ι} {e e' : σ} (h : step e x = (e', none)) (xs : List ι) :
    loopWrites step (x :: xs) e = loopWrites step xs e' := by
  simp [h]

theorem loopWrites_cons_some {x : ι} {e e' : σ} {w : β} (h : step e x = (e', some w)) (xs : List ι) :
    loopWrites step (x :: xs) e = ((loopWrites step xs e').1, w :: (loopWrites step xs e').2) := by
  simp [h]

/-- A loop over joined items is the loop over the second on the state the first leaves (R159, R198). -/
theorem loopWrites_append (xs ys : List ι) (e : σ) :
    loopWrites step (xs ++ ys) e =
      ((loopWrites step ys (loopWrites step xs e).1).1,
        (loopWrites step xs e).2 ++ (loopWrites step ys (loopWrites step xs e).1).2) := by
  induction xs generalizing e with
  | nil => simp
  | cons x xs ih => simp [ih]

/-- What every item keeps the loop keeps. If each item raises `level` by one and each write lowers it by `per`, so do
the items and the writes of the loop. -/
theorem loopWrites_keeps_level {Keeps : σ → Prop} {level : σ → Nat} {per : Nat}
    (hstep : ∀ e x, Keeps e →
      Keeps (step e x).1 ∧ level e + 1 = per * (step e x).2.toList.length + level (step e x).1)
    (xs : List ι) {e : σ} (he : Keeps e) :
    Keeps (loopWrites step xs e).1 ∧
      level e + xs.length = per * (loopWrites step xs e).2.length + level (loopWrites step xs e).1 := by
  induction xs generalizing e with
  | nil => simp [he]
  | cons x xs ih =>
    obtain ⟨he', hlevel⟩ := hstep e x he
    obtain ⟨hend, hrest⟩ := ih he'
    refine ⟨hend, ?_⟩
    simp only [loopWrites_cons, List.length_cons, List.length_append, Nat.mul_add]
    omega

end

end Sys2Proof.Machine
end

section
/-! PROOFS. DEC_DATA when every request is answered OK, and from it that splitting a payload is invisible (O22). -/

namespace Sys2Proof.Machine
open Sys2Proof.Claims

/-- One byte of DEC_DATA when the write it may lead to is answered OK (R151): the decoder left, and what is written. -/
def Decoder.takeByte (d : Decoder) (b : Byte) : Decoder × Option (List (List Sample)) :=
  if d.len + 1 = blockBytes d.C.toNat then
    ({ d.push b with len := 0 }, some (decodeBlock d.C.toNat (d.push b).block))
  else (d.push b, none)

theorem takeByte_open {d : Decoder} (b : Byte) (h : d.len + 1 ≠ blockBytes d.C.toNat) :
    d.takeByte b = (d.push b, none) :=
  if_neg h

theorem takeByte_full {d : Decoder} (b : Byte) (h : d.len + 1 = blockBytes d.C.toNat) :
    d.takeByte b = ({ d.push b with len := 0 }, some (decodeBlock d.C.toNat (d.push b).block)) :=
  if_pos h

/-- The byte loop when every write is answered OK (R151, R156). -/
theorem decodeBytes_of_answersOk (bs : List Byte) {d : Decoder} {k : DecSink}
    (hk : k.AnswersOk Config.decAnswer (loopWrites Decoder.takeByte bs d).2.length) :
    decodeBytes bs d k =
      ((loopWrites Decoder.takeByte bs d).1,
        k.askAll Config.decAnswer ((loopWrites Decoder.takeByte bs d).2.map .write), .ok) := by
  induction bs generalizing d k with
  | nil => rfl
  | cons b bs ih =>
    obtain ⟨hopen, heq⟩ | ⟨hfull, -, heq⟩ | ⟨hfull, x, herr, -⟩ := decodeBytes_cons b bs d k
    · rw [loopWrites_cons_none (takeByte_open b hopen)] at hk ⊢
      exact heq.trans (ih hk)
    · rw [loopWrites_cons_some (takeByte_full b hfull)] at hk ⊢
      exact heq.trans (ih (hk.ask _))
    · rw [loopWrites_cons_some (takeByte_full b hfull)] at hk
      cases (hk.ask_ok _).symm.trans herr

/-- A decoder for `C` channels that takes DEC_DATA (R29, R264). -/
structure Decoder.Streaming (C : BitVec 4) (d : Decoder) : Prop where
  check : d.check = none
  C_eq : d.C = C
  len_lt : d.len < blockBytes C.toNat

theorem Decoder.Ok.streaming {d : Decoder} (h : d.Ok) (hcfg : d.cfg = true) (hpoison : d.poison = false) :
    d.Streaming d.C := by
  obtain ⟨-, -, -, hlen⟩ := (decoder_ok_iff hcfg).mp h
  exact ⟨by simp [Decoder.check, hcfg, hpoison], rfl, hlen hpoison⟩

/-- A byte raises `D.len` by one, a write lowers it by a block (R151). -/
theorem Decoder.Streaming.takeByte {C : BitVec 4} {d : Decoder} (h : d.Streaming C) (b : Byte) :
    (d.takeByte b).1.Streaming C ∧
      d.len + 1 = blockBytes C.toNat * (d.takeByte b).2.toList.length + (d.takeByte b).1.len := by
  obtain ⟨hcheck, rfl, hlen⟩ := h
  by_cases hfull : d.len + 1 = blockBytes d.C.toNat
  · rw [takeByte_full b hfull]
    exact ⟨⟨hcheck, rfl, Nat.zero_lt_of_lt hlen⟩, by simpa using hfull⟩
  · rw [takeByte_open b hfull]
    exact ⟨⟨hcheck, rfl, lt_of_le_of_ne hlen hfull⟩, by simp⟩

/-- The byte loop writes as many blocks as the buffered and the new bytes hold (R94, R159). -/
theorem Decoder.Streaming.loop {C : BitVec 4} {d : Decoder} (h : d.Streaming C) (bs : List Byte) :
    (loopWrites Decoder.takeByte bs d).1.Streaming C ∧
      (loopWrites Decoder.takeByte bs d).2.length = (d.len + bs.length) / blockBytes C.toNat := by
  obtain ⟨hend, hlevel⟩ := loopWrites_keeps_level (step := Decoder.takeByte) (Keeps := Decoder.Streaming C)
    (level := Decoder.len) (fun _ b hd => hd.takeByte b) bs h
  refine ⟨hend, (Nat.div_eq_of_lt_le ?_ ?_).symm⟩
  · rw [hlevel, Nat.mul_comm]
    exact Nat.le_add_right _ _
  · rw [hlevel, Nat.succ_mul, Nat.mul_comm]
    exact Nat.add_lt_add_left hend.len_lt _

/-! ## The command -/

/-- A decoder that takes DEC_DATA takes the bytes that are presented (R151). -/
theorem exec_decData_of_presented {s : State} {items : List Item} {rest : List HostMove} (hs : s.g.halted = false)
    (hcheck : s.d.check = none) (hinput : s.input = presented items rest) :
    exec (.decData items.length) s = .next (decodeCommand (items.map itemByte) { s with input := rest }) := by
  have htake : takeItems items.length s.input = some (items, rest) := by
    rw [hinput]; exact takeItems_of_items items rest
  rw [exec, execDecData, hcheck, guarded_pass hs, htake]

/-- DEC_DATA after its checks, when every request is answered OK (R151, R152). -/
theorem decodeCommand_of_answersOk {bytes : List Byte} {s : State}
    (hk : s.decSink.AnswersOk Config.decAnswer ((loopWrites Decoder.takeByte bytes s.d).2.length + 1)) :
    decodeCommand bytes s = complete .ok { s with
      d := (loopWrites Decoder.takeByte bytes s.d).1
      decSink := s.decSink.afterData Config.decAnswer (decReserveCount s.d bytes.length)
        (loopWrites Decoder.takeByte bytes s.d).2 } := by
  have hreserve : s.decSink.ask (.reserve (decReserveCount s.d bytes.length)) =
      ((s.decSink.ask (.reserve (decReserveCount s.d bytes.length))).1, .ok) :=
    Prod.ext rfl (hk.ask_ok _)
  have hloop := decodeBytes_of_answersOk bytes (hk.ask (.reserve (decReserveCount s.d bytes.length)))
  rw [decodeCommand, hreserve]
  exact congrArg (fun r => complete r.2.2 { s with d := r.1, decSink := r.2.1 }) hloop

/-- DEC_DATA of bytes that are presented, when every request is answered OK. -/
theorem exec_decData_of_answersOk {s : State} {items : List Item} {rest : List HostMove} (hs : s.g.halted = false)
    (hcheck : s.d.check = none) (hinput : s.input = presented items rest)
    (hk : s.decSink.AnswersOk Config.decAnswer
      ((loopWrites Decoder.takeByte (items.map itemByte) s.d).2.length + 1)) :
    exec (.decData items.length) s = .next (complete .ok { s with
      input := rest
      d := (loopWrites Decoder.takeByte (items.map itemByte) s.d).1
      decSink := s.decSink.afterData Config.decAnswer (decReserveCount s.d items.length)
        (loopWrites Decoder.takeByte (items.map itemByte) s.d).2 }) := by
  have hrun := decodeCommand_of_answersOk (s := { s with input := rest }) hk
  rw [exec_decData_of_presented hs hcheck hinput, hrun, List.length_map]

theorem presented_append (xs ys : List Item) (rest : List HostMove) :
    presented (xs ++ ys) rest = presented xs (presented ys rest) := by
  simp [presented]

/-- Settles O22: the byte loop goes on where it stopped, and the second reserve request adds no write. -/
theorem decDataSplitIsInvisible : Obligations.DecDataSplitIsInvisible := by
  unfold Obligations.DecDataSplitIsInvisible
  intro s xs ys rest hs hok hcfg hpoison hinput hk
  have hd := hok.streaming hcfg hpoison
  obtain ⟨hd₁, -⟩ := hd.loop (xs.map itemByte)
  obtain ⟨-, hcount⟩ := hd.loop ((xs ++ ys).map itemByte)
  have hjoined := loopWrites_append (step := Decoder.takeByte) (xs.map itemByte) (ys.map itemByte) s.d
  rw [← List.map_append] at hjoined
  rw [List.length_map, List.length_append, ← Nat.add_assoc] at hcount
  rw [← hcount] at hk
  have hlength := congrArg (fun r => r.2.length) hjoined
  rw [List.length_append] at hlength
  have hexec₁ := exec_decData_of_answersOk hs hd.check (hinput.trans (presented_append xs ys rest))
    (SinkPort.AnswersOk.mono hk (by omega))
  have hexec := exec_decData_of_answersOk hs hd.check hinput (SinkPort.AnswersOk.mono hk (by omega))
  rw [List.length_append] at hexec
  refine ⟨_, _, _, hexec₁, rfl, exec_decData_of_answersOk hs hd₁.check rfl ?_, hexec, ?_, rfl, ?_⟩
  · exact SinkPort.AnswersOk.afterData (SinkPort.AnswersOk.mono hk (by simp only [complete_d]; omega)) _
  · simp only [complete_d, hjoined]
  · simp only [complete_decSink, complete_d, writesOf_afterData, hjoined, List.append_assoc]

end Sys2Proof.Machine
end

section
/-! PROOFS. ENC_DATA when every request is answered OK, and from it that splitting the frames is invisible (O33). -/

namespace Sys2Proof.Machine
open Sys2Proof.Claims

/-! ## The frame loop -/

/-- One frame of ENC_DATA when the write it may lead to is answered OK (R183, R184): the encoder left, and what is
written. -/
def Encoder.takeFrame (e : Encoder) (f : List Sample) : Encoder × Option (List Byte) :=
  if e.fill + 1 = 66 then ((e.pushFrame f).packBlock.1, some (e.pushFrame f).packBlock.2) else (e.pushFrame f, none)

theorem takeFrame_open {e : Encoder} (f : List Sample) (h : e.fill + 1 ≠ 66) :
    e.takeFrame f = (e.pushFrame f, none) :=
  if_neg h

theorem takeFrame_full {e : Encoder} (f : List Sample) (h : e.fill + 1 = 66) :
    e.takeFrame f = ((e.pushFrame f).packBlock.1, some (e.pushFrame f).packBlock.2) :=
  if_pos h

/-- The frame loop when every write is answered OK (R181, R193). -/
theorem encodeFrames_of_answersOk (fs : List (List Sample)) {e : Encoder} {k : EncSink}
    (hk : k.AnswersOk Config.encAnswer (loopWrites Encoder.takeFrame fs e).2.length) :
    encodeFrames fs e k =
      ((loopWrites Encoder.takeFrame fs e).1,
        k.askAll Config.encAnswer ((loopWrites Encoder.takeFrame fs e).2.map .write), .ok) := by
  induction fs generalizing e k with
  | nil => rfl
  | cons f fs ih =>
    obtain ⟨hopen, heq⟩ | ⟨hfull, -, heq⟩ | ⟨hfull, x, herr, -⟩ := encodeFrames_cons f fs e k
    · rw [loopWrites_cons_none (takeFrame_open f hopen)] at hk ⊢
      exact heq.trans (ih hk)
    · rw [loopWrites_cons_some (takeFrame_full f hfull)] at hk ⊢
      exact heq.trans (ih (hk.ask _))
    · rw [loopWrites_cons_some (takeFrame_full f hfull)] at hk
      cases (hk.ask_ok _).symm.trans herr

/-- An encoder for `C` channels that takes ENC_DATA (R33, R264). -/
structure Encoder.Streaming (C : BitVec 4) (e : Encoder) : Prop where
  check : e.check = none
  C_eq : e.C = C
  one_le_C : 1 ≤ C.toNat
  one_le_fill : 1 ≤ e.fill
  fill_le : e.fill ≤ 65

theorem encoder_check_congr {e e' : Encoder} (hcfg : e'.cfg = e.cfg) (hpoison : e'.poison = e.poison) :
    e'.check = e.check := by
  rw [Encoder.check, Encoder.check, hcfg, hpoison]

theorem Encoder.Ok.streaming {e : Encoder} (h : e.Ok) (hcfg : e.cfg = true) (hpoison : e.poison = false) :
    e.Streaming e.C := by
  obtain ⟨h1, h65⟩ := h.fill_bounds hcfg
  exact ⟨by simp [Encoder.check, hcfg, hpoison], rfl, (h.configured hcfg).one_le, h1, h65⟩

/-- A frame leaves at least two live entries; it raises `E.fill` by one, and a write lowers it by the 64 samples of a
block (R183, R192). -/
theorem Encoder.Streaming.takeFrame {C : BitVec 4} {e : Encoder} (h : e.Streaming C) (f : List Sample) :
    ((e.takeFrame f).1.Streaming C ∧ 2 ≤ (e.takeFrame f).1.fill) ∧
      e.fill + 1 = 64 * (e.takeFrame f).2.toList.length + (e.takeFrame f).1.fill := by
  obtain ⟨hcheck, hC, hC1, h1, h65⟩ := h
  by_cases hfull : e.fill + 1 = 66
  · rw [takeFrame_full f hfull]
    have hcheck' : (e.pushFrame f).packBlock.1.check = none :=
      (encoder_check_congr (by simp) (by simp)).trans hcheck
    exact ⟨⟨⟨hcheck', by simpa using hC, hC1, by simp, by simp⟩, by simp⟩, by simpa using hfull⟩
  · rw [takeFrame_open f hfull]
    have h65' : (e.pushFrame f).fill ≤ 65 := by simp only [pushFrame_fill]; omega
    exact ⟨⟨⟨hcheck, hC, hC1, by simp, h65'⟩, by simpa using h1⟩, by simp⟩

/-- The frame loop writes a block each time the window becomes full (R184, R197). -/
theorem Encoder.Streaming.loop {C : BitVec 4} {e : Encoder} (h : e.Streaming C) (fs : List (List Sample)) :
    (loopWrites Encoder.takeFrame fs e).1.Streaming C ∧
      (loopWrites Encoder.takeFrame fs e).2.length = blocksEmitted e.fill fs.length := by
  cases fs with
  | nil =>
    have h65 := h.fill_le
    refine ⟨h, ?_⟩
    simp only [loopWrites_nil, List.length_nil, blocksEmitted]
    omega
  | cons f fs =>
    obtain ⟨hfirst, hlevel⟩ := h.takeFrame f
    obtain ⟨⟨hend, h2⟩, hlevels⟩ := loopWrites_keeps_level (step := Encoder.takeFrame)
      (Keeps := fun e => e.Streaming C ∧ 2 ≤ e.fill) (level := Encoder.fill)
      (fun _ f he => he.1.takeFrame f) fs hfirst
    have h65 := hend.fill_le
    refine ⟨hend, ?_⟩
    simp only [loopWrites_cons, List.length_append, List.length_cons, blocksEmitted]
    omega

/-! ## The payload -/

theorem framesOf_length (c n : Nat) (xs : List Sample) : (framesOf c n xs).length = n := by
  induction n generalizing xs with
  | zero => rfl
  | succ n ih => simp [framesOf, ih]

/-- The frames of a joined payload are the frames of its parts (R87). -/
theorem framesOf_append (c n m : Nat) {xs : List Sample} (ys : List Sample) (h : xs.length = n * c) :
    framesOf c (n + m) (xs ++ ys) = framesOf c n xs ++ framesOf c m ys := by
  induction n generalizing xs with
  | zero =>
    obtain rfl := List.eq_nil_of_length_eq_zero (h.trans (Nat.zero_mul c))
    simp [framesOf]
  | succ n ih =>
    have hc : c ≤ xs.length := by rw [h, Nat.succ_mul]; exact Nat.le_add_left _ _
    have hdrop : (xs.drop c).length = n * c := by rw [List.length_drop, h, Nat.succ_mul, Nat.add_sub_cancel]
    rw [Nat.add_right_comm]
    simp only [framesOf, List.cons_append, List.take_append_of_le_length hc, List.drop_append_of_le_length hc, ih hdrop]

/-- `c` equal lengths pass the check of R181. -/
theorem arraysMatch_replicate (c n : Nat) : arraysMatch c c (List.replicate c n) = true := by
  cases c <;> simp [arraysMatch, List.replicate_succ]

theorem itemLength_ofNat {n : Nat} (h : n < 4294967296) : itemLength (BitVec.ofNat 32 n) = n := by
  simp [itemLength, Nat.mod_eq_of_lt h]

/-- The frames that the sample items of a payload make (R87). -/
def payloadFrames (c n : Nat) (samples : List Item) : List (List Sample) := framesOf c n (samples.map itemSample)

theorem payloadFrames_length (c n : Nat) (samples : List Item) : (payloadFrames c n samples).length = n :=
  framesOf_length c n _

theorem payloadFrames_append {c n m : Nat} {xs : List Item} (ys : List Item) (h : xs.length = n * c) :
    payloadFrames c (n + m) (xs ++ ys) = payloadFrames c n xs ++ payloadFrames c m ys := by
  rw [payloadFrames, List.map_append, framesOf_append c n m _ (by rwa [List.length_map])]
  rfl

theorem presented_encPayload (c n : Nat) (samples : List Item) (rest : List HostMove) :
    presented (encPayload c n samples) rest =
      (List.replicate c (BitVec.ofNat 32 n)).map HostMove.item ++ presented samples rest := by
  simp [presented, encPayload]

/-! ## The command -/

/-- An encoder that takes ENC_DATA takes the lengths and the frames that are presented (R181). -/
theorem exec_encData_of_presented {s : State} {n : Nat} {samples : List Item} {rest : List HostMove}
    (hs : s.g.halted = false) (hcheck : s.e.check = none) (hC : 1 ≤ s.e.C.toNat) (hn : n < 4294967296)
    (hlen : samples.length = n * s.e.C.toNat) (hinput : s.input = presented (encPayload s.e.C.toNat n samples) rest) :
    exec (.encData s.e.C.toNat) s =
      .next (encodeCommand (payloadFrames s.e.C.toNat n samples) { s with input := rest }) := by
  have hlens : takeItems s.e.C.toNat s.input =
      some (List.replicate s.e.C.toNat (BitVec.ofNat 32 n), presented samples rest) := by
    have htake := takeItems_of_items (List.replicate s.e.C.toNat (BitVec.ofNat 32 n)) (presented samples rest)
    rwa [List.length_replicate, ← presented_encPayload, ← hinput] at htake
  have hsamples : takeItems (n * s.e.C.toNat) (presented samples rest) = some (samples, rest) := by
    rw [← hlen]; exact takeItems_of_items samples rest
  have hhead : (List.replicate s.e.C.toNat n).headD 0 = n := by
    obtain ⟨c, hc⟩ := Nat.exists_eq_add_of_le' hC
    rw [hc]; rfl
  rw [exec, execEncData, hcheck, guarded_pass hs, hlens]
  simp only [List.map_replicate, itemLength_ofNat hn, arraysMatch_replicate, if_true, hhead, takeFrames, hsamples]
  rfl

/-- ENC_DATA after its checks, when every request is answered OK (R181, R182). -/
theorem encodeCommand_of_answersOk {frames : List (List Sample)} {s : State}
    (hk : s.encSink.AnswersOk Config.encAnswer ((loopWrites Encoder.takeFrame frames s.e).2.length + 1)) :
    encodeCommand frames s = complete .ok { s with
      e := (loopWrites Encoder.takeFrame frames s.e).1
      encSink := s.encSink.afterData Config.encAnswer (encReserveCount s.e frames.length)
        (loopWrites Encoder.takeFrame frames s.e).2 } := by
  have hreserve : EncSink.ask (.reserve (encReserveCount s.e frames.length)) s.encSink =
      ((EncSink.ask (.reserve (encReserveCount s.e frames.length)) s.encSink).1, .ok) :=
    Prod.ext rfl (hk.ask_ok _)
  have hloop := encodeFrames_of_answersOk frames (hk.ask (.reserve (encReserveCount s.e frames.length)))
  rw [encodeCommand, hreserve]
  exact congrArg (fun r => complete r.2.2 { s with e := r.1, encSink := r.2.1 }) hloop

/-- ENC_DATA of frames that are presented, when every request is answered OK. -/
theorem exec_encData_of_answersOk {s : State} {C : BitVec 4} {n : Nat} {samples : List Item} {rest : List HostMove}
    (hs : s.g.halted = false) (he : s.e.Streaming C) (hn : n < 4294967296) (hlen : samples.length = n * C.toNat)
    (hinput : s.input = presented (encPayload C.toNat n samples) rest)
    (hk : s.encSink.AnswersOk Config.encAnswer
      ((loopWrites Encoder.takeFrame (payloadFrames C.toNat n samples) s.e).2.length + 1)) :
    exec (.encData C.toNat) s = .next (complete .ok { s with
      input := rest
      e := (loopWrites Encoder.takeFrame (payloadFrames C.toNat n samples) s.e).1
      encSink := s.encSink.afterData Config.encAnswer (encReserveCount s.e n)
        (loopWrites Encoder.takeFrame (payloadFrames C.toNat n samples) s.e).2 }) := by
  obtain ⟨hcheck, rfl, hC1, -, -⟩ := he
  have hrun := encodeCommand_of_answersOk (s := { s with input := rest }) hk
  rw [exec_encData_of_presented hs hcheck hC1 hn hlen hinput, hrun, payloadFrames_length]

/-- Settles O33: the frame loop goes on where it stopped, and the second reserve request adds no write. -/
theorem encDataSplitIsInvisible : Obligations.EncDataSplitIsInvisible := by
  unfold Obligations.EncDataSplitIsInvisible
  intro s n m xs ys rest hs hok hcfg hpoison hnm hxs hys hk
  have he := hok.streaming hcfg hpoison
  obtain ⟨he₁, -⟩ := he.loop (payloadFrames s.e.C.toNat n xs)
  obtain ⟨-, hcount⟩ := he.loop (payloadFrames s.e.C.toNat (n + m) (xs ++ ys))
  have hjoined := loopWrites_append (step := Encoder.takeFrame) (payloadFrames s.e.C.toNat n xs)
    (payloadFrames s.e.C.toNat m ys) s.e
  rw [← payloadFrames_append ys hxs] at hjoined
  rw [payloadFrames_length] at hcount
  rw [← hcount] at hk
  have hlength := congrArg (fun r => r.2.length) hjoined
  rw [List.length_append] at hlength
  have hxys : (xs ++ ys).length = (n + m) * s.e.C.toNat := by rw [List.length_append, hxs, hys, Nat.add_mul]
  have hexec₁ := exec_encData_of_answersOk (s := { s with input := presented (encPayload s.e.C.toNat n xs) rest })
    hs he (by omega) hxs rfl (SinkPort.AnswersOk.mono hk (by dsimp only; omega))
  have hexec := exec_encData_of_answersOk
    (s := { s with input := presented (encPayload s.e.C.toNat (n + m) (xs ++ ys)) rest })
    hs he hnm hxys rfl (SinkPort.AnswersOk.mono hk (by dsimp only; omega))
  refine ⟨_, _, _, hexec₁, exec_encData_of_answersOk hs he₁ (by omega) hys rfl ?_, hexec, ?_, ?_⟩
  · exact SinkPort.AnswersOk.afterData (SinkPort.AnswersOk.mono hk (by simp only [complete_e]; omega)) _
  · simp only [complete_e, hjoined]
  · simp only [complete_encSink, complete_e, writesOf_afterData, hjoined, List.append_assoc]

end Sys2Proof.Machine
end

section
/-! PROOFS. Where a byte stands in a written block, and from it that a block gives back its headers and codes (O27). -/

namespace Sys2Proof.Machine
open Sys2Proof.Claims

/-! ## Bytes of a concatenation of equal parts -/

/-- When every part has `m` elements, element `j` of part `i` stands at `m * i + j`. -/
theorem getElem?_flatMap_of_length {α β : Type} {f : α → List β} {m : Nat} {l : List α}
    (hf : ∀ a ∈ l, (f a).length = m) {i j : Nat} (hi : i < l.length) (hj : j < m) :
    (l.flatMap f)[m * i + j]? = (f l[i])[j]? := by
  induction l generalizing i with
  | nil => cases hi
  | cons a l ih =>
    obtain ⟨ha, hl⟩ := List.forall_mem_cons.mp hf
    rw [List.flatMap_cons]
    cases i with
    | zero => rw [Nat.mul_zero, Nat.zero_add, List.getElem?_append_left (by rwa [ha]), List.getElem_cons_zero]
    | succ i =>
      rw [List.getElem?_append_right (by rw [ha, Nat.mul_succ]; omega), ha, Nat.mul_succ, Nat.add_right_comm,
        Nat.add_sub_cancel, List.getElem_cons_succ]
      exact ih hl (Nat.lt_of_succ_lt_succ hi)

/-! ## The bytes of a block -/

theorem headerBytes_length (ref : Sample) (idx : Nat) : (headerBytes ref idx).length = 4 := rfl

theorem chunkBytes_length (codes : List Code) (k : Nat) : (chunkBytes codes k).length = 4 := rfl

/-- The four bytes a channel of one chunk owns, in a chunk of all channels (R91). -/
theorem chunk_length (codes : List (List Code)) (k : Nat) :
    (codes.flatMap (fun cs => chunkBytes cs k)).length = 4 * codes.length := by
  simp [List.length_flatMap, chunkBytes_length, Nat.mul_comm]

/-- The header part of a block (R90). -/
def headerPart (hs : List (Sample × Nat)) : List Byte := hs.flatMap (fun h => headerBytes h.1 h.2)

theorem blockOf_headerBytes (hs : List (Sample × Nat)) (codes : List (List Code)) :
    blockOf (hs.map (fun h => headerBytes h.1 h.2)) codes = headerPart hs ++ bodyBytes codes := by
  rw [blockOf, headerPart, List.flatMap_def]

theorem headerPart_length (hs : List (Sample × Nat)) : (headerPart hs).length = 4 * hs.length := by
  simp [headerPart, List.length_flatMap, headerBytes_length, Nat.mul_comm]

/-- Byte `j` of the header of channel `c` (R90). -/
theorem blockByte_header {hs : List (Sample × Nat)} (body : List Byte) {c j : Nat} (hc : c < hs.length) (hj : j < 4) :
    blockByte (headerPart hs ++ body) (4 * c + j) = (headerBytes hs[c].1 hs[c].2).getD j 0 := by
  have hlt : 4 * c + j < (headerPart hs).length := by rw [headerPart_length]; omega
  rw [blockByte, List.getD_eq_getElem?_getD, List.getElem?_append_left hlt, headerPart,
    getElem?_flatMap_of_length (fun _ _ => headerBytes_length _ _) hc hj, List.getD_eq_getElem?_getD]

/-- Byte `b` of channel `c`'s word in chunk `k` (R91). -/
theorem blockByte_body {headers : List Byte} {codes : List (List Code)} (hlen : headers.length = 4 * codes.length)
    {c k b : Nat} (hc : c < codes.length) (hk : k < 8) (hb : b < 4) :
    blockByte (headers ++ bodyBytes codes) (4 * codes.length + 4 * (k * codes.length + c) + b) =
      codeByte (codes[c].getD (8 * k + 2 * b) 0) (codes[c].getD (8 * k + 2 * b + 1) 0) := by
  have hpos : 4 * codes.length + 4 * (k * codes.length + c) + b - headers.length =
      4 * codes.length * k + (4 * c + b) := by
    rw [hlen, Nat.mul_add, Nat.mul_comm k, ← Nat.mul_assoc]; omega
  rw [blockByte, List.getD_eq_getElem?_getD, List.getElem?_append_right (by rw [hlen]; omega), hpos, bodyBytes,
    getElem?_flatMap_of_length (fun k _ => chunk_length codes k) (by simpa using hk) (by omega),
    getElem?_flatMap_of_length (fun cs _ => chunkBytes_length cs _) hc hb, List.getElem_range, chunkBytes]
  simp [hb]

/-! ## What the reader finds there -/

theorem codeByte_low (lo hi : Code) : (codeByte lo hi).extractLsb' 0 4 = lo :=
  BitVec.extractLsb'_append_eq_right

theorem codeByte_high (lo hi : Code) : (codeByte lo hi).extractLsb' 4 4 = hi := by
  rw [codeByte, BitVec.extractLsb'_append_eq_of_le (by decide)]
  exact BitVec.extractLsb'_eq_self

theorem le16_bytesLe16 (v : Sample) : le16 (v.extractLsb' 0 8) (v.extractLsb' 8 8) = v := by
  rw [le16, BitVec.extractLsb'_append_extractLsb'_eq_extractLsb' (by rfl)]
  exact BitVec.extractLsb'_eq_self

theorem clampStepIndex_ofNat {idx : Nat} (h : idx ≤ 88) :
    clampStepIndex ((BitVec.ofNat 8 idx).toNat : Int) = idx := by
  rw [BitVec.toNat_ofNat, Nat.mod_eq_of_lt (by omega)]
  exact clampStepIndex_of_inRange h

/-- Parsing the header written for channel `c` (R62, R90, R153). -/
theorem parseHeader_headerPart {hs : List (Sample × Nat)} (body : List Byte) {c : Nat} (hc : c < hs.length)
    (hidx : hs[c].2 ≤ 88) : parseHeader (headerPart hs ++ body) c = ⟨hs[c].1.toInt, hs[c].2⟩ := by
  have h0 : blockByte (headerPart hs ++ body) (4 * c) = hs[c].1.extractLsb' 0 8 :=
    blockByte_header body hc (j := 0) (by decide)
  have h1 : blockByte (headerPart hs ++ body) (4 * c + 1) = hs[c].1.extractLsb' 8 8 :=
    blockByte_header body hc (by decide)
  have h2 : blockByte (headerPart hs ++ body) (4 * c + 2) = BitVec.ofNat 8 hs[c].2 :=
    blockByte_header body hc (by decide)
  rw [parseHeader, h0, h1, h2, le16_bytesLe16, clampStepIndex_ofNat hidx]

/-- Code `s` of channel `c` is read where it was written (R63, R92). -/
theorem codeAt_bodyBytes {headers : List Byte} {codes : List (List Code)} (hlen : headers.length = 4 * codes.length)
    {c s : Nat} (hc : c < codes.length) (hs : s < 64) :
    codeAt codes.length (headers ++ bodyBytes codes) c s = codes[c].getD s 0 := by
  have hbyte := blockByte_body hlen hc (k := s / 8) (b := s % 8 / 2) (by omega) (by omega)
  rw [codeAt, hbyte]
  split
  · next heven =>
    have hpos : 8 * (s / 8) + 2 * (s % 8 / 2) = s := by omega
    rw [codeByte_low, hpos]
  · next hodd =>
    have hpos : 8 * (s / 8) + 2 * (s % 8 / 2) + 1 = s := by omega
    rw [codeByte_high, hpos]

theorem channelCodes_bodyBytes {headers : List Byte} {codes : List (List Code)}
    (hlen : headers.length = 4 * codes.length) {c : Nat} (hc : c < codes.length) (h64 : codes[c].length = 64) :
    channelCodes codes.length (headers ++ bodyBytes codes) c = codes[c] := by
  refine List.ext_getElem (by simp [channelCodes, h64]) (fun s hs _ => ?_)
  have hs64 : s < 64 := by simpa [channelCodes] using hs
  simp [channelCodes, codeAt_bodyBytes hlen hc hs64, h64, hs64]

/-- Settles O27: each channel's header and codes are read from the bytes they were written to. -/
theorem blockFormatRoundTrip : Obligations.BlockFormatRoundTrip := by
  unfold Obligations.BlockFormatRoundTrip
  intro hs codes hlen hidx h64
  simp only [blockOf_headerBytes]
  have hheaders : (headerPart hs).length = 4 * codes.length := by rw [headerPart_length, hlen]
  refine ⟨?_, fun c hc => ⟨?_, ?_⟩⟩
  · rw [List.length_append, hheaders, bodyBytes_length, hlen, blockBytes, Config.blockBytesPerChannel]
    omega
  · rw [List.getD_eq_getElem _ _ hc]
    exact parseHeader_headerPart _ hc (hidx _ (List.getElem_mem hc))
  · have hc' : c < codes.length := hlen ▸ hc
    rw [List.getD_eq_getElem _ _ hc', hlen]
    exact channelCodes_bodyBytes hheaders hc' (h64 _ (List.getElem_mem hc'))

end Sys2Proof.Machine
end

section
/-! PROOFS. The logs of the sinks and the results only grow (O57). -/

namespace Sys2Proof.Machine
open Sys2Proof.Claims

/-! ## The engines' loops add to their sink's log -/

theorem ask_log_prefix {α : Type} {free : Nat → Answer} {r : Request α} {k k' : SinkPort α} {a : Answer}
    (hask : k.ask free r = (k', a)) : k.log <+: k'.log := by
  have hlog : k'.log = k.log ++ [r] := by rw [← ask_log free r k, hask]
  rw [hlog]
  exact List.prefix_append _ _

theorem decodeBytes_log_prefix (bs : List Byte) (d : Decoder) (k : DecSink) :
    k.log <+: (decodeBytes bs d k).2.1.log := by
  induction bs generalizing d k with
  | nil => exact List.prefix_rfl
  | cons b bs ih =>
    obtain ⟨-, heq⟩ | ⟨-, -, heq⟩ | ⟨-, x, -, heq⟩ := decodeBytes_cons b bs d k
    · rw [heq]
      exact ih _ _
    · rw [heq]
      exact (ask_log_prefix rfl).trans (ih _ _)
    · rw [heq]
      exact ask_log_prefix rfl

theorem encodeFrames_log_prefix (fs : List (List Sample)) (e : Encoder) (k : EncSink) :
    k.log <+: (encodeFrames fs e k).2.1.log := by
  induction fs generalizing e k with
  | nil => exact List.prefix_rfl
  | cons f fs ih =>
    obtain ⟨-, heq⟩ | ⟨-, -, heq⟩ | ⟨-, x, -, heq⟩ := encodeFrames_cons f fs e k
    · rw [heq]
      exact ih _ _
    · rw [heq]
      exact (ask_log_prefix rfl).trans (ih _ _)
    · rw [heq]
      exact ask_log_prefix rfl

theorem emitBlock_log_prefix {e e' : Encoder} {k k' : EncSink} {r : Result} (h : e.emitBlock k = (e', k', r)) :
    k.log <+: k'.log := by
  obtain ⟨-, heq⟩ | ⟨x, -, heq⟩ := emitBlock_cases e k
  · cases heq.symm.trans h
    exact ask_log_prefix rfl
  · cases heq.symm.trans h
    exact ask_log_prefix rfl

/-! ## Every command -/

/-- From `s` to `t` results and requests were only added (R68, R300). -/
structure State.GrowsTo (s t : State) : Prop where
  results : s.results <+: t.results
  decLog : s.decSink.log <+: t.decSink.log
  encLog : s.encSink.log <+: t.encSink.log

/-- The moves to come, `G`, the engines and the pair are no part of what is observed. -/
theorem State.GrowsTo.of_eq {s t : State} (hresults : t.results = s.results) (hdec : t.decSink = s.decSink)
    (henc : t.encSink = s.encSink) : s.GrowsTo t := by
  refine ⟨?_, ?_, ?_⟩
  · rw [hresults]
  · rw [hdec]
  · rw [henc]

theorem State.GrowsTo.complete {s t : State} (h : s.GrowsTo t) (r : Result) : s.GrowsTo (complete r t) :=
  { h with results := h.results.trans (List.prefix_append _ _) }

theorem State.GrowsTo.withDecoder (s : State) (d : Decoder) {k : DecSink} (hk : s.decSink.log <+: k.log) :
    s.GrowsTo { s with d := d, decSink := k } :=
  ⟨List.prefix_rfl, hk, List.prefix_rfl⟩

theorem State.GrowsTo.withEncoder (s : State) (e : Encoder) {k : EncSink} (hk : s.encSink.log <+: k.log) :
    s.GrowsTo { s with e := e, encSink := k } :=
  ⟨List.prefix_rfl, List.prefix_rfl, hk⟩

theorem decodeCommand_growsTo (bytes : List Byte) (s : State) : s.GrowsTo (decodeCommand bytes s) := by
  unfold decodeCommand
  split
  · next hask => exact (State.GrowsTo.withDecoder s _ (ask_log_prefix hask)).complete _
  · next hask =>
    have hloop := (ask_log_prefix hask).trans (decodeBytes_log_prefix bytes s.d _)
    exact (State.GrowsTo.withDecoder s _ hloop).complete _

theorem encodeCommand_growsTo (frames : List (List Sample)) (s : State) : s.GrowsTo (encodeCommand frames s) := by
  unfold encodeCommand
  split
  · next hask => exact (State.GrowsTo.withEncoder s _ (ask_log_prefix hask)).complete _
  · next hask =>
    have hloop := (ask_log_prefix hask).trans (encodeFrames_log_prefix frames s.e _)
    exact (State.GrowsTo.withEncoder s _ hloop).complete _

theorem finishCommand_growsTo (s : State) : s.GrowsTo (finishCommand s) := by
  unfold finishCommand
  split
  · split
    · next hemit => exact (State.GrowsTo.withEncoder s _ (emitBlock_log_prefix hemit)).complete _
    · next hemit => exact (State.GrowsTo.withEncoder s _ (emitBlock_log_prefix hemit)).complete _
  · exact (State.GrowsTo.withEncoder s _ List.prefix_rfl).complete _

/-- A command's fault gives no result and makes no request (R262). -/
theorem guarded_growsTo {i : Instr} {check : Option Cause} {s t : State}
    {body : State → Host.Outcome State Fault Refusal} (hbody : body s = .next t → s.GrowsTo t)
    (h : guarded i check s body = .next t) : s.GrowsTo t := by
  obtain ⟨-, ⟨cause, -, rfl⟩ | ⟨-, h⟩⟩ := guarded_next h
  · exact .of_eq rfl rfl rfl
  · exact hbody h

/-- What was on the port when a command began to take its payload does not matter. -/
theorem State.GrowsTo.of_withInput {s t : State} {input : List HostMove}
    (h : ({ s with input := input } : State).GrowsTo t) : s.GrowsTo t :=
  ⟨h.results, h.decLog, h.encLog⟩

theorem execDecInit_growsTo {ch : Nat} {s t : State} (h : execDecInit ch s = .next t) : s.GrowsTo t := by
  refine guarded_growsTo (fun hbody => ?_) h
  cases hbody
  exact (State.GrowsTo.withDecoder s _ List.prefix_rfl).complete _

theorem execDecData_growsTo {len : Nat} {s t : State} (h : execDecData len s = .next t) : s.GrowsTo t := by
  refine guarded_growsTo (fun hbody => ?_) h
  split at hbody
  · cases hbody
  · next items rest _ =>
    cases hbody
    exact (decodeCommand_growsTo _ { s with input := rest }).of_withInput

theorem execEncInit_growsTo {ch la : Nat} {s t : State} (h : execEncInit ch la s = .next t) : s.GrowsTo t := by
  refine guarded_growsTo (fun hbody => ?_) h
  cases hbody
  exact (State.GrowsTo.withEncoder s _ List.prefix_rfl).complete _

theorem takeFrames_growsTo {n : Nat} {s t : State} (h : takeFrames n s = .next t) : s.GrowsTo t := by
  unfold takeFrames at h
  split at h
  · cases h
  · next items rest _ =>
    cases h
    exact (encodeCommand_growsTo _ { s with input := rest }).of_withInput

theorem execEncData_growsTo {narr : Nat} {s t : State} (h : execEncData narr s = .next t) : s.GrowsTo t := by
  refine guarded_growsTo (fun hbody => ?_) h
  split at hbody
  · cases hbody
  · next lens rest _ =>
    split at hbody
    · exact (takeFrames_growsTo (s := { s with input := rest }) hbody).of_withInput
    · cases hbody
      exact .of_eq rfl rfl rfl

theorem execEncFinish_growsTo {s t : State} (h : execEncFinish s = .next t) : s.GrowsTo t := by
  refine guarded_growsTo (fun hbody => ?_) h
  cases hbody
  exact finishCommand_growsTo s

theorem execEncReset_growsTo {s t : State} (h : execEncReset s = .next t) : s.GrowsTo t := by
  refine guarded_growsTo (fun hbody => ?_) h
  cases hbody
  exact (State.GrowsTo.withEncoder s _ List.prefix_rfl).complete _

/-- Every instruction that answers a next state only adds results and requests. -/
theorem exec_growsTo {i : Instr} {s t : State} (h : exec i s = .next t) : s.GrowsTo t := by
  by_cases hcode : isCommand i = false
  · obtain ⟨c, -, hc⟩ := exec_code hcode s
    cases hc.symm.trans h
    exact .of_eq rfl rfl rfl
  · cases i with
    | decInit ch => exact execDecInit_growsTo h
    | decData len => exact execDecData_growsTo h
    | encInit ch la => exact execEncInit_growsTo h
    | encData narr => exact execEncData_growsTo h
    | encFinish => exact execEncFinish_growsTo h
    | encReset => exact execEncReset_growsTo h
    | _ => exact absurd rfl hcode

theorem step_growsTo {s t : State} (h : step s = .next t) : s.GrowsTo t := by
  obtain ⟨rest, -, rfl⟩ | ⟨m, rest, -, -, -, rfl⟩ | ⟨-, -, rfl⟩ | ⟨w, rest, err, -, -, -, rfl⟩ |
    ⟨w, rest, i, -, -, -, hexec⟩ | ⟨c, rest, -, -, hexec⟩ := step_next h
  · exact .of_eq rfl rfl rfl
  · exact .of_eq rfl rfl rfl
  · exact .of_eq rfl rfl rfl
  · exact .of_eq rfl rfl rfl
  · exact (exec_growsTo (s := { s with input := rest }) hexec).of_withInput
  · exact (exec_growsTo (s := { s with input := rest }) hexec).of_withInput

/-- Settles O57, by what a step can do: each command adds its requests and its result at the end of the lists. -/
theorem requestsAndResultsOnlyGrow : Obligations.RequestsAndResultsOnlyGrow := by
  unfold Obligations.RequestsAndResultsOnlyGrow
  intro s t h
  obtain ⟨hresults, hdec, henc⟩ := step_growsTo h
  exact ⟨hresults, hdec, henc⟩

end Sys2Proof.Machine
end

section
/-! PROOFS. The command encodings: the rows of the opcode table exclude each other, so that a word of a row decodes to what
the row builds, and from it decode and encode are inverse, and legality is being of a row (O1, O2, O3, O4). -/

namespace Sys2Proof.Machine
open Sys2Proof.Claims

/-! ## The rows exclude each other (R81, R88) -/

/-- A word of a row has the low byte of the row's pattern: every mask covers `w[7:0]`. -/
theorem lowByte_of_matches {r : CmdRow} {w : Item} (hr : r ∈ cmdRows) (hw : r.matches w = true) :
    r.pattern.extractLsb' 0 8 = w.extractLsb' 0 8 := by
  have hmask : ∀ r ∈ cmdRows, r.mask.extractLsb' 0 8 = BitVec.allOnes 8 := by decide
  have hword : w &&& r.mask = r.pattern := by simpa [CmdRow.matches] using hw
  exact (extractLsb'_of_masked hword 0 8 (hmask r hr)).symm

/-- No two rows have one low byte, so a row that a word matches is the only one. -/
theorem filter_matches_eq_singleton {r : CmdRow} {w : Item} (hr : r ∈ cmdRows) (hw : r.matches w = true) :
    cmdRows.filter (fun r => r.matches w) = [r] := by
  have hdistinct : (cmdRows.map (fun r => r.pattern.extractLsb' 0 8)).Nodup := by decide
  have hnodup : (cmdRows.filter (fun r => r.matches w)).Nodup := hdistinct.of_map.filter _
  refine List.perm_singleton.mp ((List.perm_ext_iff_of_nodup hnodup (List.nodup_singleton r)).mpr fun q => ?_)
  rw [List.mem_filter, List.mem_singleton]
  constructor
  · rintro ⟨hq, hqw⟩
    exact List.inj_on_of_nodup_map hdistinct hq hr ((lowByte_of_matches hq hqw).trans (lowByte_of_matches hr hw).symm)
  · rintro rfl
    exact ⟨hr, hw⟩

/-- The decoder answers exactly what the row of the word builds. -/
theorem decode_cmd_eq_ok_iff {w : Item} {i : Instr} :
    decode (.cmd w) = .ok i ↔ ∃ r ∈ cmdRows, r.matches w = true ∧ r.build w = i := by
  constructor
  · intro h
    simp only [decode, decodeCmd] at h
    split at h
    · next r hfind =>
      have hmatch := List.find?_some hfind
      cases h
      exact ⟨r, List.mem_of_find?_eq_some hfind, hmatch, rfl⟩
    · cases h
  · rintro ⟨r, hr, hw, rfl⟩
    have hfind : cmdRows.find? (fun r => r.matches w) = some r := by
      rw [← List.head?_filter, filter_matches_eq_singleton hr hw]; rfl
    simp only [decode, decodeCmd, hfind]

/-- A word is legal when it is of some row: it is then of no other (R88). -/
theorem legalWord_iff {w : Item} : LegalWord w ↔ ∃ r ∈ cmdRows, r.matches w = true := by
  have hlength : (tableRows.filter (fun r => w &&& r.1 == r.2)).length =
      (cmdRows.filter (fun r => r.matches w)).length := by
    have htable : tableRows = cmdRows.map (fun r => (r.mask, r.pattern)) := rfl
    rw [htable, List.filter_map, List.length_map]
    rfl
  rw [LegalWord, hlength]
  constructor
  · intro hone
    obtain ⟨r, hr⟩ := List.length_eq_one_iff.mp hone
    obtain ⟨hmem, hw⟩ := List.mem_filter.mp (hr ▸ List.mem_singleton_self r)
    exact ⟨r, hmem, hw⟩
  · rintro ⟨r, hr, hw⟩
    rw [filter_matches_eq_singleton hr hw]
    rfl

theorem legalWord_iff_decode {w : Item} : LegalWord w ↔ ∃ i, decode (.cmd w) = .ok i := by
  rw [legalWord_iff]
  constructor
  · rintro ⟨r, hr, hw⟩
    exact ⟨r.build w, decode_cmd_eq_ok_iff.mpr ⟨r, hr, hw, rfl⟩⟩
  · rintro ⟨i, hi⟩
    obtain ⟨r, hr, hw, -⟩ := decode_cmd_eq_ok_iff.mp hi
    exact ⟨r, hr, hw⟩

/-! ## What a row builds -/

theorem build_isCommand {r : CmdRow} (hr : r ∈ cmdRows) (w : Item) : isCommand (r.build w) = true := by
  simp only [cmdRows, List.mem_cons, List.not_mem_nil, or_false] at hr
  obtain rfl | rfl | rfl | rfl | rfl | rfl := hr
  all_goals rfl

theorem isCommand_of_decode_cmd {w : Item} {i : Instr} (h : decode (.cmd w) = .ok i) : isCommand i = true := by
  obtain ⟨r, hr, -, rfl⟩ := decode_cmd_eq_ok_iff.mp h
  exact build_isCommand hr w

theorem fieldCh_lt (w : Item) : fieldCh w < 256 := BitVec.isLt _

theorem fieldLa_lt (w : Item) : fieldLa w < 256 := BitVec.isLt _

theorem fieldLen_lt (w : Item) : fieldLen w < 16777216 := BitVec.isLt _

/-- The fields of a word hold well-formed operands (R82 to R85). -/
theorem build_wellFormed {r : CmdRow} (hr : r ∈ cmdRows) (w : Item) : (r.build w).WellFormed = true := by
  simp only [cmdRows, List.mem_cons, List.not_mem_nil, or_false] at hr
  obtain rfl | rfl | rfl | rfl | rfl | rfl := hr
  · exact decide_eq_true (fieldCh_lt w)
  · exact decide_eq_true (fieldLen_lt w)
  · exact Bool.and_eq_true_iff.mpr ⟨decide_eq_true (fieldCh_lt w), decide_eq_true (fieldLa_lt w)⟩
  · exact decide_eq_true (fieldCh_lt w)
  · rfl
  · rfl

theorem encode_decodeCode (c : Code) : encode (decodeCode c) = .code c ∧ (decodeCode c).WellFormed = true := by
  revert c; decide

/-! ## The words the encoder writes -/

/-- A word with the operand `w[15:8]` is of the row of its operation byte: DEC_INIT and ENC_DATA (R81). -/
theorem chWord_masked (x op : Byte) : (0#16 ++ x ++ op : Item) &&& 0xFFFF00FF#32 = 0#24 ++ op := by
  have hmask : 0xFFFF00FF#32 = BitVec.allOnes 16 ++ 0#8 ++ BitVec.allOnes 8 := by decide
  rw [hmask, BitVec.and_append, BitVec.and_append]
  simp [-BitVec.reduceAllOnes]

/-- A word with the operands `w[23:16]` and `w[15:8]`: ENC_INIT (R81). -/
theorem laChWord_masked (y x op : Byte) : (0#8 ++ y ++ x ++ op : Item) &&& 0xFF0000FF#32 = 0#24 ++ op := by
  have hmask : 0xFF0000FF#32 = BitVec.allOnes 8 ++ 0#8 ++ 0#8 ++ BitVec.allOnes 8 := by decide
  rw [hmask, BitVec.and_append, BitVec.and_append, BitVec.and_append]
  simp [-BitVec.reduceAllOnes]

/-- A word with the operand `w[31:8]`: DEC_DATA (R81). -/
theorem lenWord_masked (x : BitVec 24) (op : Byte) : (x ++ op : Item) &&& 0x000000FF#32 = 0#24 ++ op := by
  have hmask : 0x000000FF#32 = 0#24 ++ BitVec.allOnes 8 := by decide
  rw [hmask, BitVec.and_append]
  simp [-BitVec.reduceAllOnes]

theorem fieldCh_word {ch : Nat} (high : BitVec 16) (op : Byte) (h : ch < 256) :
    fieldCh (high ++ BitVec.ofNat 8 ch ++ op) = ch := by
  rw [fieldCh, BitVec.extractLsb'_append_eq_of_le (by decide), BitVec.extractLsb'_append_eq_right, BitVec.toNat_ofNat]
  exact Nat.mod_eq_of_lt h

theorem fieldLa_word {la : Nat} (high low op : Byte) (h : la < 256) :
    fieldLa (high ++ BitVec.ofNat 8 la ++ low ++ op) = la := by
  rw [fieldLa, BitVec.extractLsb'_append_eq_of_le (by decide), BitVec.extractLsb'_append_eq_of_le (by decide),
    BitVec.extractLsb'_append_eq_right, BitVec.toNat_ofNat]
  exact Nat.mod_eq_of_lt h

theorem fieldLen_word {len : Nat} (op : Byte) (h : len < 16777216) : fieldLen (BitVec.ofNat 24 len ++ op) = len := by
  rw [fieldLen, BitVec.extractLsb'_append_eq_of_le (by decide), BitVec.extractLsb'_eq_self, BitVec.toNat_ofNat]
  exact Nat.mod_eq_of_lt h

/-- A word whose masked bits are the pattern of row `n` decodes to what that row builds. -/
theorem decode_cmd_of_row (n : Nat) {r : CmdRow} {w : Item} {i : Instr} (hr : cmdRows[n]? = some r)
    (hw : w &&& r.mask = r.pattern) (hi : r.build w = i) : decode (.cmd w) = .ok i :=
  decode_cmd_eq_ok_iff.mpr ⟨r, List.mem_of_getElem? hr, beq_iff_eq.mpr hw, hi⟩

/-! ## The obligations -/

/-- Settles O1: a command's encoding is of the command's row, and its fields hold the operands; a code is read by its
number. -/
theorem decodeOfEncodeIsTheInstruction : Obligations.DecodeOfEncodeIsTheInstruction := by
  unfold Obligations.DecodeOfEncodeIsTheInstruction
  intro i hwf
  cases i with
  | decInit ch =>
    have hch : ch < 256 := by simpa [Instr.WellFormed] using hwf
    exact decode_cmd_of_row 0 rfl (chWord_masked _ _) (congrArg _ (fieldCh_word _ _ hch))
  | decData len =>
    have hlen : len < 16777216 := by simpa [Instr.WellFormed] using hwf
    exact decode_cmd_of_row 1 rfl (lenWord_masked _ _) (congrArg _ (fieldLen_word _ hlen))
  | encInit ch la =>
    obtain ⟨hch, hla⟩ : ch < 256 ∧ la < 256 := by simpa [Instr.WellFormed] using hwf
    exact decode_cmd_of_row 2 rfl (laChWord_masked _ _ _)
      (congrArg₂ _ (fieldCh_word _ _ hch) (fieldLa_word _ _ _ hla))
  | encData narr =>
    have hnarr : narr < 256 := by simpa [Instr.WellFormed] using hwf
    exact decode_cmd_of_row 3 rfl (chWord_masked _ _) (congrArg _ (fieldCh_word _ _ hnarr))
  | _ => rfl

/-- Settles O2: a command word is of the row that built its instruction, and a code numbers its own row. -/
theorem decodedWordIsTheEncoding : Obligations.DecodedWordIsTheEncoding := by
  unfold Obligations.DecodedWordIsTheEncoding
  intro w i h
  cases w with
  | cmd w =>
    refine ⟨encode_of_decode_cmd h, ?_⟩
    obtain ⟨r, hr, -, rfl⟩ := decode_cmd_eq_ok_iff.mp h
    exact build_wellFormed hr w
  | code c =>
    cases h
    exact encode_decodeCode c

/-- Settles O3: each word is the encoding of its instruction, so O1 reads it back. -/
theorem publishedWordsDecode : Obligations.PublishedWordsDecode := by
  have hread := decodeOfEncodeIsTheInstruction
  unfold Obligations.PublishedWordsDecode
  exact ⟨hread (.decInit 1) rfl, hread (.decInit 9) rfl, hread (.decData 16777215) rfl, hread (.encInit 2 1) rfl,
    hread (.encInit 1 255) rfl, hread (.encData 2) rfl, hread .encFinish rfl, hread .encReset rfl,
    hread .code3 rfl, hread .codeC rfl⟩

/-- Settles O4: a legal word decodes to a command, which the step runs; any other decodes to nothing, and the step takes
its fault. -/
theorem wordRunsOrFaultsAsIllegal : Obligations.WordRunsOrFaultsAsIllegal := by
  unfold Obligations.WordRunsOrFaultsAsIllegal
  intro s w rest hs hinput
  refine ⟨fun hlegal => ?_, fun hillegal => ?_⟩
  · obtain ⟨i, hi⟩ := legalWord_iff_decode.mp hlegal
    exact ⟨i, hi, isCommand_of_decode_cmd hi, stepRunsTheDecodedInstruction.1 s w rest i hs hinput hi⟩
  · cases hdecode : decode (.cmd w) with
    | ok i => exact absurd (legalWord_iff_decode.mpr ⟨i, hdecode⟩) hillegal
    | error err =>
      rw [step, fetch_item hs hinput, takeWord, hdecode]
      rfl

end Sys2Proof.Machine
end

section
/-! PROOFS. What a block's decoding and the search do not read: the reserved header bytes, and the window beyond the depth
(O26, O50). -/

namespace Sys2Proof.Machine
open Sys2Proof.Claims

/-! ## The bytes a block's decoding reads -/

/-- Two blocks for `n` channels that agree in every byte but the reserved ones of the headers (R90, R95). -/
def AgreeOutsideReserved (n : Nat) (blk blk' : List Byte) : Prop :=
  ∀ i, ¬ (i < 4 * n ∧ i % 4 = 3) → blockByte blk i = blockByte blk' i

section
variable {n : Nat} {blk blk' : List Byte}

/-- Header parse reads bytes `4c` to `4c + 2` (R153). -/
theorem AgreeOutsideReserved.parseHeader_eq (h : AgreeOutsideReserved n blk blk') (c : Nat) :
    parseHeader blk c = parseHeader blk' c := by
  rw [parseHeader, parseHeader, h (4 * c) (by omega), h (4 * c + 1) (by omega), h (4 * c + 2) (by omega)]

/-- Body unpack reads only behind the headers (R91, R154). -/
theorem AgreeOutsideReserved.codeWord_eq (h : AgreeOutsideReserved n blk blk') (k c : Nat) :
    codeWord n blk k c = codeWord n blk' k c := by
  have hbody : ∀ j, blockByte blk (4 * n + j) = blockByte blk' (4 * n + j) := fun j => h _ (by omega)
  simp only [codeWord, Nat.add_assoc, hbody]

theorem AgreeOutsideReserved.chunkLanes_eq (h : AgreeOutsideReserved n blk blk') :
    chunkLanes n blk = chunkLanes n blk' := by
  funext lanes k
  simp only [chunkLanes, Lane.chunk, h.codeWord_eq]

end

/-- Settles O26: neither the headers nor the words of codes are read from a reserved byte. -/
theorem reservedHeaderByteIsIgnored : Obligations.ReservedHeaderByteIsIgnored := by
  unfold Obligations.ReservedHeaderByteIsIgnored
  intro n blk blk' hagree
  have h : AgreeOutsideReserved n blk blk' := hagree
  simp only [decodeBlock, unpackBlock_eq_foldl, h.chunkLanes_eq, h.parseHeader_eq]

/-! ## The window entries the search reads -/

/-- A search at depth `d` from position `p` reads entries `p` to `p + d` (R237). -/
theorem minError_congr_window {W W' : Nat → Int} (d : Nat) (pr : Predictor) (p : Nat)
    (h : ∀ i, p ≤ i → i ≤ p + d → W i = W' i) : minError W d pr p = minError W' d pr p := by
  induction d generalizing pr p with
  | zero => rw [minError_zero, minError_zero, h p (by omega) (by omega)]
  | succ d ih =>
    have hbelow : ∀ k, minError W d (advance pr k) (p + 1) = minError W' d (advance pr k) (p + 1) :=
      fun k => ih _ _ (fun i hlo hhi => h i (by omega) (by omega))
    rw [minError_succ, minError_succ, h p (by omega) (by omega)]
    simp only [hbelow]

/-- From position 1 on, at most 64 entries of a window lie ahead (R237). -/
theorem lookaheadDepth_of_le {la p : Nat} (hla : 64 ≤ la) (hp : 1 ≤ p) : lookaheadDepth la p = lookaheadDepth 64 p := by
  unfold lookaheadDepth; omega

theorem codeSamples_lookahead_capped {la : Nat} (hla : 64 ≤ la) (W : Nat → Int) (n : Nat) {p : Nat} (hp : 1 ≤ p)
    (pr : Predictor) : codeSamples la W n p pr = codeSamples 64 W n p pr := by
  induction n generalizing p pr with
  | zero => rw [codeSamples_zero, codeSamples_zero]
  | succ n ih =>
    rw [codeSamples_succ, codeSamples_succ, lookaheadDepth_of_le hla hp]
    simp only [ih (Nat.le_succ_of_le hp)]

/-- Settles O50: the search by induction on its depth, the coding loop by induction on the positions left. -/
theorem lookaheadIsCapped : Obligations.LookaheadIsCapped := by
  unfold Obligations.LookaheadIsCapped
  refine ⟨fun W W' d pr p h => minError_congr_window d pr p h, fun ch la hla => ?_⟩
  unfold Channel.coded
  exact codeSamples_lookahead_capped hla _ _ le_rfl _

end Sys2Proof.Machine
end

section
/-! PROOFS. A command whose payload the host does not supply (O58). -/

namespace Sys2Proof.Machine
open Sys2Proof.Claims

/-- A move that is no item, or no move at all, ends what can be taken. -/
theorem takeItems_succ_of_cutOff {rest : List HostMove} (h : CutOff rest) (n : Nat) : takeItems (n + 1) rest = none := by
  match rest with
  | .item w :: later => exact absurd rfl (h w later)
  | .code _ :: _ => rfl
  | .reset :: _ => rfl
  | [] => rfl

/-- Fewer items than are asked for are not taken (R295). -/
theorem takeItems_presented_of_short {items : List Item} {rest : List HostMove} {n : Nat} (hrest : CutOff rest)
    (hshort : items.length < n) : takeItems n (presented items rest) = none := by
  induction items generalizing n with
  | nil =>
    obtain ⟨m, rfl⟩ := Nat.exists_eq_add_of_le' hshort
    exact takeItems_succ_of_cutOff hrest m
  | cons x xs ih =>
    obtain ⟨m, rfl⟩ := Nat.exists_eq_add_of_le' (Nat.zero_lt_of_lt hshort)
    have hxs : takeItems m (presented xs rest) = none := ih (Nat.lt_of_succ_lt_succ hshort)
    rw [presented, List.map_cons, List.cons_append, takeItems, ← presented, hxs]
    rfl

theorem decoder_check_of_ready {d : Decoder} (hcfg : d.cfg = true) (hpoison : d.poison = false) : d.check = none := by
  simp [Decoder.check, hcfg, hpoison]

theorem encoder_check_of_ready {e : Encoder} (hcfg : e.cfg = true) (hpoison : e.poison = false) : e.check = none := by
  simp [Encoder.check, hcfg, hpoison]

theorem exec_decData_of_missing {s : State} {n : Nat} (hs : s.g.halted = false) (hcheck : s.d.check = none)
    (hmissing : takeItems n s.input = none) : exec (.decData n) s = .fault .payloadMissing := by
  rw [exec, execDecData, hcheck, guarded_pass hs, hmissing]

theorem exec_encData_of_missing {s : State} {n : Nat} (hs : s.g.halted = false) (hcheck : s.e.check = none)
    (hmissing : takeItems n s.input = none) : exec (.encData n) s = .fault .payloadMissing := by
  rw [exec, execEncData, hcheck, guarded_pass hs, hmissing]

/-- ENC_DATA with `E.C` equal lengths goes on to its samples (R181). -/
theorem exec_encData_of_lengths {s : State} {n : Nat} {samples : List Item} {rest : List HostMove}
    (hs : s.g.halted = false) (hcheck : s.e.check = none) (hC : 0 < s.e.C.toNat) (hn : n < 4294967296)
    (hinput : s.input = presented (encPayload s.e.C.toNat n samples) rest) :
    exec (.encData s.e.C.toNat) s = takeFrames n { s with input := presented samples rest } := by
  have hlens : takeItems s.e.C.toNat s.input =
      some (List.replicate s.e.C.toNat (BitVec.ofNat 32 n), presented samples rest) := by
    have htake := takeItems_of_items (List.replicate s.e.C.toNat (BitVec.ofNat 32 n)) (presented samples rest)
    rwa [List.length_replicate, ← presented_encPayload, ← hinput] at htake
  have hhead : (List.replicate s.e.C.toNat n).headD 0 = n := by
    obtain ⟨c, hc⟩ := Nat.exists_eq_add_of_le' hC
    rw [hc]; rfl
  rw [exec, execEncData, hcheck, guarded_pass hs, hlens]
  simp only [List.map_replicate, itemLength_ofNat hn, arraysMatch_replicate, if_true, hhead]

/-- Settles O58: items that run short are not taken, and a command that takes none of them has no next state. -/
theorem missingPayloadIsStuck : Obligations.MissingPayloadIsStuck := by
  unfold Obligations.MissingPayloadIsStuck
  intro s items rest hs hrest hinput
  refine ⟨fun hcfg hpoison n hshort => ?_, fun hcfg hpoison => ⟨fun n hshort => ?_, ?_⟩⟩
  · have hmissing : takeItems n s.input = none := hinput ▸ takeItems_presented_of_short hrest hshort
    exact exec_decData_of_missing hs (decoder_check_of_ready hcfg hpoison) hmissing
  · have hmissing : takeItems n s.input = none := hinput ▸ takeItems_presented_of_short hrest hshort
    exact exec_encData_of_missing hs (encoder_check_of_ready hcfg hpoison) hmissing
  · rintro n samples rfl hn hshort
    have hC : 0 < s.e.C.toNat := Nat.pos_of_mul_pos_left (Nat.zero_lt_of_lt hshort)
    rw [exec_encData_of_lengths hs (encoder_check_of_ready hcfg hpoison) hC hn hinput, takeFrames]
    simp only [takeItems_presented_of_short hrest hshort]

end Sys2Proof.Machine
end

section
/-! PROOFS. The tables, the clamps and the reconstructed delta: their ranges, and from them what each code does to a pair
(O11 to O18). -/

namespace Sys2Proof.Machine
open Sys2Proof.Claims

/-! ## The tables and the clamps -/

theorem stepSize_lt_succ {i : Nat} (h : i < 88) : stepSize i < stepSize (i + 1) := by
  have hpairs : ∀ i, i < 88 → stepSize i < stepSize (i + 1) := by decide
  exact hpairs i h

/-- Bit 3, the sign, does not matter to the index (R111). -/
theorem indexAdjust_or_sign (code : Code) : indexAdjust code = indexAdjust (code ||| 8#4) := by
  revert code; decide

theorem indexAdjust_bounds (code : Code) : -1 ≤ indexAdjust code ∧ indexAdjust code ≤ 8 := by
  revert code; decide

theorem clampStepIndex_cast (x : Int) : (clampStepIndex x : Int) = min (max x 0) 88 :=
  Int.toNat_of_nonneg (by omega)

/-- Settles O11, entry by entry. -/
theorem tablesHaveTheirStatedShape : Obligations.TablesHaveTheirStatedShape := by
  unfold Obligations.TablesHaveTheirStatedShape
  refine ⟨rfl, fun i hi => stepSize_lt_succ hi, fun i hi => ?_, rfl, indexAdjust_or_sign⟩
  exact (stepSize_bounds (Nat.le_of_lt_succ hi)).2.trans (by decide)

/-- Settles O12, by the bounds of each clamp. -/
theorem clampsStayInRange : Obligations.ClampsStayInRange := by
  unfold Obligations.ClampsStayInRange
  exact ⟨fun x => ⟨rfl, clampSample_bounds x⟩, fun x => ⟨clampStepIndex_cast x, clampStepIndex_le x⟩⟩

/-! ## The reconstructed delta (R114) -/

/-- The delta in integers: an eighth of the step and the truncated shift of each set bit, with the sign of bit 3. -/
theorem reconstructDelta_eq (step : Nat) (code : Code) :
    reconstructDelta step code = (if code.getLsbD 3 then -1 else 1) *
      ((step : Int) / 8 + (if code.getLsbD 0 then (step : Int) / 4 else 0) +
        (if code.getLsbD 1 then (step : Int) / 2 else 0) + (if code.getLsbD 2 then (step : Int) else 0)) := by
  unfold reconstructDelta
  split <;> simp [deltaMagnitude]

theorem deltaMagnitude_le (step : Nat) (code : Code) :
    deltaMagnitude step code ≤ step / 8 + step / 4 + step / 2 + step := by
  have hquarter : (if code.getLsbD 0 then step / 4 else 0) ≤ step / 4 := by split <;> omega
  have hhalf : (if code.getLsbD 1 then step / 2 else 0) ≤ step / 2 := by split <;> omega
  have hwhole : (if code.getLsbD 2 then step else 0) ≤ step := by split <;> omega
  unfold deltaMagnitude
  omega

/-- The sign bit chooses between the magnitude and its negative (R114). -/
theorem reconstructDelta_natAbs (step : Nat) (code : Code) :
    (reconstructDelta step code).natAbs = deltaMagnitude step code := by
  unfold reconstructDelta
  split
  · exact Int.natAbs_neg _
  · exact Int.natAbs_natCast _

theorem reconstructDelta_bounds {step : Nat} (code : Code) (h : step ≤ 32767) :
    -61436 ≤ reconstructDelta step code ∧ reconstructDelta step code ≤ 61436 := by
  have hmagnitude := deltaMagnitude_le step code
  have hsign := reconstructDelta_natAbs step code
  omega

/-- Settles O13: the delta from the greatest step, the index sum from the ends of `INDEX_TABLE`. -/
theorem deltaAndSumsStayInTheirWidths : Obligations.DeltaAndSumsStayInTheirWidths := by
  unfold Obligations.DeltaAndSumsStayInTheirWidths
  refine ⟨fun step code hstep => reconstructDelta_bounds code hstep, fun p code hp => ?_⟩
  obtain ⟨hlo, hhi, hidx⟩ := hp
  have hdelta := reconstructDelta_bounds code (stepSize_bounds hidx).2
  have hadjust := indexAdjust_bounds code
  omega

/-- Settles O14: both components are clamped last. -/
theorem advanceKeepsItsRange : Obligations.AdvanceKeepsItsRange := by
  unfold Obligations.AdvanceKeepsItsRange
  exact fun p code _ => advance_inRange p code

/-! ## The sixteen codes run on their own (R116 to R131) -/

/-- A code's effect: its delta on the sample and its adjustment on the index, each clamped; nothing else changes. -/
theorem exec_of_runCode {i : Instr} {code : Code} {s : State} {x j : Int} (hexec : exec i s = .next (runCode code s))
    (hx : s.run.pred + reconstructDelta (stepSize s.run.idx) code = x) (hj : s.run.idx + indexAdjust code = j) :
    exec i s = .next { s with run := ⟨clampSample x, clampStepIndex j⟩ } := by
  rw [hexec, runCode, advance, hx, hj]

/-- Settles O15: bits 0 and 1 of the code add a quarter and a half of the step. -/
theorem codesZeroToThree : Obligations.CodesZeroToThree := by
  unfold Obligations.CodesZeroToThree
  intro s p i st
  refine ⟨exec_of_runCode (code := 0) rfl ?_ rfl, exec_of_runCode (code := 1) rfl ?_ rfl,
    exec_of_runCode (code := 2) rfl ?_ rfl, exec_of_runCode (code := 3) rfl ?_ rfl⟩
  all_goals simp [reconstructDelta_eq, p, st, Int.add_assoc]

/-- Settles O16: bit 2 adds the step. -/
theorem codesFourToSeven : Obligations.CodesFourToSeven := by
  unfold Obligations.CodesFourToSeven
  intro s p i st
  refine ⟨exec_of_runCode (code := 4) rfl ?_ rfl, exec_of_runCode (code := 5) rfl ?_ rfl,
    exec_of_runCode (code := 6) rfl ?_ rfl, exec_of_runCode (code := 7) rfl ?_ rfl⟩
  all_goals simp [reconstructDelta_eq, p, st, Int.add_assoc]

/-- Settles O17: bit 3 takes the delta of codes 0 to 3 away. -/
theorem codesEightToEleven : Obligations.CodesEightToEleven := by
  unfold Obligations.CodesEightToEleven
  intro s p i st
  refine ⟨exec_of_runCode (code := 8) rfl ?_ rfl, exec_of_runCode (code := 9) rfl ?_ rfl,
    exec_of_runCode (code := 0xA) rfl ?_ rfl, exec_of_runCode (code := 0xB) rfl ?_ rfl⟩
  all_goals simp [reconstructDelta_eq, p, st, Int.sub_eq_add_neg]

/-- Settles O18: bit 3 takes the delta of codes 4 to 7 away. -/
theorem codesTwelveToFifteen : Obligations.CodesTwelveToFifteen := by
  unfold Obligations.CodesTwelveToFifteen
  intro s p i st
  refine ⟨exec_of_runCode (code := 0xC) rfl ?_ rfl, exec_of_runCode (code := 0xD) rfl ?_ rfl,
    exec_of_runCode (code := 0xE) rfl ?_ rfl, exec_of_runCode (code := 0xF) rfl ?_ rfl⟩
  all_goals simp [reconstructDelta_eq, p, st, Int.sub_eq_add_neg]

end Sys2Proof.Machine
end

section
/-! PROOFS. A channel's pair on both sides of a block: the decoder runs each channel's own codes, the encoder's coding loop
applied the same codes, so both end in one pair (O39). -/

namespace Sys2Proof.Machine
open Sys2Proof.Claims

/-! ## The codes the decoder runs through a channel -/

/-- Byte `i` of a little-endian word (R62). -/
theorem extractLsb'_le32 (b : Nat → Byte) {i : Nat} (hi : i < 4) :
    (le32 (b 0) (b 1) (b 2) (b 3)).extractLsb' (8 * i) 8 = b i := by
  unfold le32
  match i with
  | 0 => exact BitVec.extractLsb'_append_eq_right
  | 1 =>
    rw [BitVec.extractLsb'_append_eq_of_le (by decide)]
    exact BitVec.extractLsb'_append_eq_right
  | 2 =>
    rw [BitVec.extractLsb'_append_eq_of_le (by decide), BitVec.extractLsb'_append_eq_of_le (by decide)]
    exact BitVec.extractLsb'_append_eq_right
  | 3 =>
    rw [BitVec.extractLsb'_append_eq_of_le (by decide), BitVec.extractLsb'_append_eq_of_le (by decide),
      BitVec.extractLsb'_append_eq_of_le (by decide)]
    exact BitVec.extractLsb'_eq_self

/-- Nibbles `2i` and `2i + 1` of a word are the halves of its byte `i` (R63). -/
theorem nibble_eq_extractLsb'_byte (v : BitVec 32) (j : Nat) :
    nibble v j = (v.extractLsb' (8 * (j / 2)) 8).extractLsb' (4 * (j % 2)) 4 := by
  refine BitVec.eq_of_getLsbD_eq (fun i hi => ?_)
  have hpos : 8 * (j / 2) + (4 * (j % 2) + i) = 4 * j + i := by omega
  have hbit : 4 * (j % 2) + i < 8 := by omega
  simp [nibble, hpos, hbit]

/-- Code `j` of the word that channel `c` owns in chunk `k` stands where R92 puts code `8k + j`. -/
theorem nibble_codeWord (n : Nat) (blk : List Byte) (k c : Nat) {j : Nat} (hj : j < 8) :
    nibble (codeWord n blk k c) j = codeAt n blk c (8 * k + j) := by
  have hbyte : (codeWord n blk k c).extractLsb' (8 * (j / 2)) 8 = blockByte blk (4 * n + 4 * (k * n + c) + j / 2) :=
    extractLsb'_le32 (fun i => blockByte blk (4 * n + 4 * (k * n + c) + i)) (by omega)
  have hchunk : (8 * k + j) / 8 = k := by omega
  have hpair : (8 * k + j) % 8 / 2 = j / 2 := by omega
  have hparity : (8 * k + j) % 2 = j % 2 := by omega
  rw [nibble_eq_extractLsb'_byte, hbyte, codeAt, hchunk, hpair, hparity]
  obtain heven | hodd := Nat.mod_two_eq_zero_or_one j
  · rw [heven]; rfl
  · rw [hodd]; rfl

/-- The words of the eight chunks hold a channel's codes in sample order (R91, R92). -/
theorem flatMap_wordCodes (n : Nat) (blk : List Byte) (c : Nat) :
    (List.range 8).flatMap (fun k => wordCodes (codeWord n blk k c)) = channelCodes n blk c := by
  have hword : ∀ k, wordCodes (codeWord n blk k c) = (List.range 8).map (fun j => codeAt n blk c (8 * k + j)) :=
    fun k => List.map_congr_left (fun j hj => nibble_codeWord n blk k c (List.mem_range.mp hj))
  have hsamples : List.range 64 = (List.range 8).flatMap (fun k => (List.range 8).map (fun j => 8 * k + j)) := by decide
  simp only [hword, channelCodes, hsamples, List.map_flatMap, List.map_map, Function.comp_def]

/-- A chunk treats the channels one by one (R154). -/
theorem chunkLanes_map_range (n : Nat) (blk : List Byte) (k : Nat) (f : Nat → Lane) :
    chunkLanes n blk ((List.range n).map f) k = (List.range n).map (fun c => (f c).chunk n blk k c) := by
  refine List.ext_getElem (by simp [chunkLanes]) (fun c _ _ => ?_)
  simp [chunkLanes]

theorem foldl_chunkLanes_map_range (n : Nat) (blk : List Byte) (ks : List Nat) (f : Nat → Lane) :
    ks.foldl (chunkLanes n blk) ((List.range n).map f) =
      (List.range n).map (fun c => ks.foldl (fun l k => l.chunk n blk k c) (f c)) := by
  induction ks generalizing f with
  | nil => rfl
  | cons k ks ih => rw [List.foldl_cons, chunkLanes_map_range, ih]; rfl

/-- Unpacking a block runs each channel's 64 codes from that channel's header (R153, R154). -/
theorem unpackBlock_eq_map (n : Nat) (blk : List Byte) :
    unpackBlock n blk =
      (List.range n).map (fun c => (channelCodes n blk c).foldl Lane.step ⟨parseHeader blk c, []⟩) := by
  rw [unpackBlock_eq_foldl, foldl_chunkLanes_map_range]
  refine List.map_congr_left (fun c _ => ?_)
  rw [← flatMap_wordCodes, List.foldl_flatMap]
  rfl

theorem foldl_laneStep_pr (codes : List Code) (l : Lane) :
    (codes.foldl Lane.step l).pr = codes.foldl advance l.pr := by
  induction codes generalizing l with
  | nil => rfl
  | cons code codes ih => rw [List.foldl_cons, ih, lane_step_pr, List.foldl_cons]

/-! ## The codes the encoder's coding loop chose -/

theorem codeSamples_codes_length (la : Nat) (W : Nat → Int) (n p : Nat) (pr : Predictor) :
    (codeSamples la W n p pr).2.length = n := by
  induction n generalizing p pr with
  | zero => rfl
  | succ n ih => rw [codeSamples_succ, List.length_cons, ih]

/-- The loop ends in the pair its codes lead to (R191). -/
theorem codeSamples_pair (la : Nat) (W : Nat → Int) (n p : Nat) (pr : Predictor) :
    (codeSamples la W n p pr).1 = (codeSamples la W n p pr).2.foldl advance pr := by
  induction n generalizing p pr with
  | zero => rfl
  | succ n ih => rw [codeSamples_succ, List.foldl_cons, ← ih]

theorem coded_codes_length (la : Nat) (ch : Channel) : (ch.coded la).2.length = 64 := by
  unfold Channel.coded
  exact codeSamples_codes_length _ _ _ _ _

/-- A coded channel's pair: its codes run from the window's first entry and the header's index (R190, R191). -/
theorem coded_pair (la : Nat) (ch : Channel) :
    (ch.coded la).1 = (ch.coded la).2.foldl advance ⟨ch.entry 0, ch.pr.idx⟩ := by
  unfold Channel.coded
  exact codeSamples_pair _ _ _ _ _

/-! ## What the decoder reads in a packed block -/

/-- The headers of a packed block, as their two fields (R189). -/
def Encoder.headerFields (e : Encoder) : List (Sample × Nat) :=
  (List.range e.C.toNat).map (fun c => ((e.channel c).reference, (e.channel c).pr.idx))

/-- The codes of a packed block, one list a channel (R191). -/
def Encoder.codeLists (e : Encoder) : List (List Code) :=
  (List.range e.C.toNat).map (fun c => ((e.channel c).coded e.L.toNat).2)

@[simp] theorem headerFields_length (e : Encoder) : e.headerFields.length = e.C.toNat := by
  simp [Encoder.headerFields]

@[simp] theorem codeLists_length (e : Encoder) : e.codeLists.length = e.C.toNat := by
  simp [Encoder.codeLists]

theorem packedBytes_eq (e : Encoder) : e.packedBytes = headerPart e.headerFields ++ bodyBytes e.codeLists := by
  rw [← blockOf_headerBytes, Encoder.headerFields, List.map_map]
  rfl

/-- The header read back: the window's first entry and the step index (R153, R189). -/
theorem parseHeader_packedBytes {e : Encoder} {c : Nat} (hc : c < e.C.toNat) (hidx : (e.channel c).pr.idx ≤ 88) :
    parseHeader e.packedBytes c = ⟨(e.channel c).entry 0, (e.channel c).pr.idx⟩ := by
  have hfields : e.headerFields[c]'(by simpa using hc) = ((e.channel c).reference, (e.channel c).pr.idx) := by
    simp [Encoder.headerFields]
  rw [packedBytes_eq, parseHeader_headerPart _ (by simpa using hc) (by rwa [hfields]), hfields]
  rfl

/-- The codes read back: those the coding loop chose (R92, R191). -/
theorem channelCodes_packedBytes {e : Encoder} {c : Nat} (hc : c < e.C.toNat) :
    channelCodes e.C.toNat e.packedBytes c = ((e.channel c).coded e.L.toNat).2 := by
  have hcodes : e.codeLists[c]'(by simpa using hc) = ((e.channel c).coded e.L.toNat).2 := by
    simp [Encoder.codeLists]
  have hread := channelCodes_bodyBytes (headers := headerPart e.headerFields) (codes := e.codeLists)
    (by simp [headerPart_length]) (by simpa using hc) (by rw [hcodes, coded_codes_length])
  rwa [hcodes, codeLists_length, ← packedBytes_eq] at hread

/-! ## The obligation -/

theorem initPredictors_channel_inRange {e : Encoder} (h : ∀ c, c < 8 → (e.channel c).pr.InRange) {c : Nat} (hc : c < 8) :
    (e.initPredictors.channel c).pr.InRange :=
  initPredictors_bankInRange h c hc

/-- Settles O39: both sides run the codes of the block from the header's pair, the decoder when it reads them and the
encoder when it chose them. -/
theorem decoderFollowsTheEncoder : Obligations.DecoderFollowsTheEncoder := by
  unfold Obligations.DecoderFollowsTheEncoder
  intro e h8 hrange
  rw [unpackBlock_eq_map, List.map_map]
  refine List.map_congr_left (fun c hmem => ?_)
  have hc : c < e.C.toNat := List.mem_range.mp hmem
  have hc' : c < e.initPredictors.C.toNat := by rwa [initPredictors_C]
  obtain ⟨-, -, hidx⟩ := initPredictors_channel_inRange hrange (hc.trans_le h8)
  have hblock : e.packBlock.2 = e.initPredictors.packedBytes := rfl
  have hcodes := channelCodes_packedBytes hc'
  rw [initPredictors_C, initPredictors_L] at hcodes
  calc ((channelCodes e.C.toNat e.packBlock.2 c).foldl Lane.step ⟨parseHeader e.packBlock.2 c, []⟩).pr
      = ((e.initPredictors.channel c).coded e.L.toNat).2.foldl advance
          ⟨(e.initPredictors.channel c).entry 0, (e.initPredictors.channel c).pr.idx⟩ := by
        rw [foldl_laneStep_pr, hblock, hcodes, parseHeader_packedBytes hc' hidx]
    _ = ((e.initPredictors.channel c).coded e.L.toNat).1 := (coded_pair _ _).symm
    _ = (e.packBlock.1.channel c).pr := by
        rw [packBlock_channel e c (hc.trans_le h8), if_pos hc, packed_pr]

end Sys2Proof.Machine
end

section
/-! PROOFS. DEC_DATA on the stream of the buffered and the new bytes: which blocks it writes and what stays buffered,
when every request is answered OK and when one fails; a decoded block by channels; DEC_INIT (O19, O21, O23, O24, O25). -/

namespace Sys2Proof.Machine
open Sys2Proof.Claims

/-! ## The whole blocks of a stream -/

/-- The bytes after the last whole block of `b` bytes (R157). -/
def bytesLeft (b : Nat) (stream : List Byte) : List Byte := stream.drop (stream.length / b * b)

theorem bytesLeft_length (b : Nat) (stream : List Byte) : (bytesLeft b stream).length = stream.length % b := by
  rw [bytesLeft, List.length_drop, Nat.mod_eq_sub_div_mul]

section
variable {b : Nat} {stream : List Byte}

theorem wholeBlocks_of_short (h : stream.length < b) : wholeBlocks b stream = [] := by
  rw [wholeBlocks, Nat.div_eq_of_lt h]; rfl

theorem bytesLeft_of_short (h : stream.length < b) : bytesLeft b stream = stream := by
  rw [bytesLeft, Nat.div_eq_of_lt h, Nat.zero_mul, List.drop_zero]

end

section
variable {b : Nat} {blk : List Byte} (hb : 0 < b) (hblk : blk.length = b) (stream : List Byte)
include hblk

/-- Behind a block in front, a stream goes on as without it. -/
theorem drop_succ_mul_append (i : Nat) : (blk ++ stream).drop ((i + 1) * b) = stream.drop (i * b) := by
  rw [Nat.succ_mul, Nat.add_comm, ← List.drop_drop, List.drop_left' hblk]

include hb

theorem append_length_div : (blk ++ stream).length / b = stream.length / b + 1 := by
  rw [List.length_append, hblk, Nat.add_div_left _ hb]

theorem wholeBlocks_append : wholeBlocks b (blk ++ stream) = blk :: wholeBlocks b stream := by
  rw [wholeBlocks, append_length_div hb hblk, List.range_succ_eq_map, List.map_cons, List.map_map]
  refine congrArg₂ List.cons ?_ (List.map_congr_left fun i _ => ?_)
  · rw [Nat.zero_mul, List.drop_zero, List.take_left' hblk]
  · exact congrArg (List.take b) (drop_succ_mul_append hblk stream i)

theorem bytesLeft_append : bytesLeft b (blk ++ stream) = bytesLeft b stream := by
  rw [bytesLeft, append_length_div hb hblk, drop_succ_mul_append hblk, bytesLeft]

end

/-! ## The live bytes of the buffer (R28, R151) -/

theorem liveBytes_length {d : Decoder} (h : d.len ≤ 288) : (liveBytes d).length = d.len := by
  simpa [liveBytes] using h

theorem liveBytes_push {d : Decoder} (h : d.len < 288) (b : Byte) : liveBytes (d.push b) = liveBytes d ++ [b] := by
  simp [liveBytes, Decoder.push, List.take_add_one, List.take_set_of_le, h]

/-- A full buffer is one block (R151). -/
theorem liveBytes_of_full {d : Decoder} (h : d.len = blockBytes d.C.toNat) : liveBytes d = d.block := by
  rw [liveBytes, Decoder.block, h]

theorem blockBytes_le {C : Nat} (hC : C ≤ 8) : blockBytes C ≤ 288 := by
  rw [blockBytes, Config.blockBytesPerChannel]; omega

section
variable {C : BitVec 4} {d : Decoder} (hC : C.toNat ≤ 8) (hd : d.Streaming C)
include hC hd

theorem Decoder.Streaming.len_lt_288 : d.len < 288 := hd.len_lt.trans_le (blockBytes_le hC)

theorem Decoder.Streaming.liveBytes_length : (liveBytes d).length = d.len :=
  Machine.liveBytes_length (hd.len_lt_288 hC).le

/-- A byte taken into the buffer leaves the stream as it was. -/
theorem Decoder.Streaming.liveBytes_push_append (b : Byte) (bs : List Byte) :
    liveBytes (d.push b) ++ bs = liveBytes d ++ b :: bs := by
  rw [liveBytes_push (hd.len_lt_288 hC), List.append_assoc, List.singleton_append]

/-- The block a byte completes stands in front of the stream (R94). -/
theorem Decoder.Streaming.block_push (hfull : d.len + 1 = blockBytes d.C.toNat) (b : Byte) (bs : List Byte) :
    (d.push b).block.length = blockBytes C.toNat ∧ liveBytes d ++ b :: bs = (d.push b).block ++ bs := by
  have hblock : liveBytes (d.push b) = (d.push b).block := liveBytes_of_full hfull
  refine ⟨?_, by rw [← hd.liveBytes_push_append hC, hblock]⟩
  rw [← hblock, Machine.liveBytes_length (Nat.succ_le_of_lt (hd.len_lt_288 hC)), push_len, hfull, hd.C_eq]

omit hC

theorem Decoder.Streaming.push (hopen : d.len + 1 ≠ blockBytes d.C.toNat) (b : Byte) : (d.push b).Streaming C := by
  simpa only [takeByte_open b hopen] using (hd.takeByte b).1

theorem Decoder.Streaming.cleared (hfull : d.len + 1 = blockBytes d.C.toNat) (b : Byte) :
    ({ d.push b with len := 0 } : Decoder).Streaming C := by
  simpa only [takeByte_full b hfull] using (hd.takeByte b).1

theorem Decoder.Streaming.blockBytes_pos : 0 < blockBytes C.toNat := Nat.zero_lt_of_lt hd.len_lt

end

/-! ## The answer to a request on the decoder's sink port -/

theorem decAsk_answer (k : DecSink) (r : Request (List (List Sample))) :
    (k.ask r).2 = k.answerAt Config.decAnswer 0 :=
  ask_answer _ _ _

/-- A request whose answer is known. -/
theorem decAsk_eq {k : DecSink} {a : Answer} (h : k.answerAt Config.decAnswer 0 = a)
    (r : Request (List (List Sample))) : k.ask r = ((k.ask r).1, a) :=
  Prod.ext rfl ((decAsk_answer k r).trans h)

/-! ## The byte loop on the stream -/

/-- When every write is answered OK, the byte loop writes the stream's whole blocks, decoded, and keeps the bytes after
them (R94, R151, R157). -/
theorem Decoder.Streaming.loop_stream {C : BitVec 4} (hC : C.toNat ≤ 8) (bs : List Byte) {d : Decoder}
    (hd : d.Streaming C) :
    (loopWrites Decoder.takeByte bs d).2 =
        (wholeBlocks (blockBytes C.toNat) (liveBytes d ++ bs)).map (decodeBlock C.toNat) ∧
      liveBytes (loopWrites Decoder.takeByte bs d).1 = bytesLeft (blockBytes C.toNat) (liveBytes d ++ bs) := by
  induction bs generalizing d with
  | nil =>
    have hshort : (liveBytes d ++ []).length < blockBytes C.toNat := by
      rw [List.append_nil, hd.liveBytes_length hC]
      exact hd.len_lt
    rw [wholeBlocks_of_short hshort, bytesLeft_of_short hshort, List.append_nil]
    exact ⟨rfl, rfl⟩
  | cons b bs ih =>
    by_cases hfull : d.len + 1 = blockBytes d.C.toNat
    · obtain ⟨hblk, hstream⟩ := hd.block_push hC hfull b bs
      obtain ⟨hwrites, hleft⟩ := ih (hd.cleared hfull b)
      rw [loopWrites_cons_some (takeByte_full b hfull), hstream, wholeBlocks_append hd.blockBytes_pos hblk,
        bytesLeft_append hd.blockBytes_pos hblk, List.map_cons, hd.C_eq]
      exact ⟨congrArg _ hwrites, hleft⟩
    · rw [loopWrites_cons_none (takeByte_open b hfull), ← hd.liveBytes_push_append hC]
      exact ih (hd.push hfull b)

/-- What a failed write of the block `blk` leaves: the block still in the buffer, and the decoder poisoned (R266). -/
structure Decoder.FailedOn (C : BitVec 4) (blk : List Byte) (d : Decoder) : Prop where
  cfg : d.cfg = true
  C_eq : d.C = C
  len : d.len = blockBytes C.toNat
  live : liveBytes d = blk
  poison : d.poison = true

theorem Decoder.Streaming.failedOn {C : BitVec 4} {d : Decoder} (hd : d.Streaming C)
    (hfull : d.len + 1 = blockBytes d.C.toNat) (b : Byte) :
    ({ d.push b with poison := true } : Decoder).FailedOn C (d.push b).block where
  cfg := (decoder_check_eq_none hd.check).1
  C_eq := hd.C_eq
  len := hd.C_eq ▸ hfull
  live := liveBytes_of_full hfull
  poison := rfl

/-- When `j` writes are answered OK and the next is not, the byte loop ends after the stream's first `j + 1` blocks
(R158, R265, R266). -/
theorem Decoder.Streaming.decodeBytes_of_writeError {C : BitVec 4} (hC : C.toNat ≤ 8) {x : SinkError} (bs : List Byte)
    {d : Decoder} {k : DecSink} {j : Nat} (hd : d.Streaming C)
    (hlen : (j + 1) * blockBytes C.toNat ≤ (liveBytes d ++ bs).length)
    (hk : k.AnswersOk Config.decAnswer j) (herr : k.answerAt Config.decAnswer j = .err x) :
    ∃ d', d'.FailedOn C (((liveBytes d ++ bs).drop (j * blockBytes C.toNat)).take (blockBytes C.toNat)) ∧
      decodeBytes bs d k =
        (d', k.askAll Config.decAnswer
          ((((wholeBlocks (blockBytes C.toNat) (liveBytes d ++ bs)).take (j + 1)).map
            (decodeBlock C.toNat)).map .write), .sinkErr x) := by
  induction bs generalizing d k j with
  | nil =>
    rw [List.append_nil, hd.liveBytes_length hC, Nat.succ_mul] at hlen
    exact absurd hd.len_lt (by omega)
  | cons b bs ih =>
    obtain ⟨hopen, heq⟩ | ⟨hfull, hok, heq⟩ | ⟨hfull, y, hfail, heq⟩ := decodeBytes_cons b bs d k
    · rw [← hd.liveBytes_push_append hC] at hlen ⊢
      rw [heq]
      exact ih (hd.push hopen b) hlen hk herr
    · obtain ⟨hblk, hstream⟩ := hd.block_push hC hfull b bs
      rw [hstream] at hlen ⊢
      rw [decAsk_answer] at hok
      cases j with
      | zero => cases hok.symm.trans herr
      | succ j =>
        have hrest : (j + 1) * blockBytes C.toNat ≤ bs.length := by
          rw [List.length_append, hblk, Nat.succ_mul] at hlen
          omega
        obtain ⟨d', hd', hloop⟩ := ih (hd.cleared hfull b) hrest
          (hk.ask (.write (decodeBlock d.C.toNat (d.push b).block))) ((ask_answerAt _ _ _ _).trans herr)
        refine ⟨d', by rw [drop_succ_mul_append hblk]; exact hd', heq.trans (hloop.trans ?_)⟩
        rw [wholeBlocks_append hd.blockBytes_pos hblk, hd.C_eq]
        rfl
    · obtain ⟨hblk, hstream⟩ := hd.block_push hC hfull b bs
      rw [decAsk_answer] at hfail
      cases j with
      | zero =>
        cases hfail.symm.trans herr
        rw [hstream, Nat.zero_mul, List.drop_zero, List.take_left' hblk]
        refine ⟨_, hd.failedOn hfull b, heq.trans ?_⟩
        rw [wholeBlocks_append hd.blockBytes_pos hblk, hd.C_eq]
        rfl
      | succ j => cases (hk 0 j.succ_pos).symm.trans hfail

/-! ## The command on the stream -/

/-- The stream's length counts the buffered bytes, so R152's count is the stream's (R152). -/
theorem Decoder.Streaming.decReserveCount_eq {C : BitVec 4} {d : Decoder} (hC : C.toNat ≤ 8) (hd : d.Streaming C)
    (bs : List Byte) :
    decReserveCount d bs.length = ceilDiv (liveBytes d ++ bs).length (blockBytes C.toNat) * 64 := by
  rw [decReserveCount, List.length_append, hd.liveBytes_length hC, hd.C_eq]

/-- DEC_DATA after its checks, when the reserve request fails (R151, R266). -/
theorem decodeCommand_of_reserveError {s : State} {x : SinkError} (bytes : List Byte)
    (herr : s.decSink.answerAt Config.decAnswer 0 = .err x) :
    decodeCommand bytes s = complete (.sinkErr x) { s with
      d := { s.d with poison := true }
      decSink := (s.decSink.ask (.reserve (decReserveCount s.d bytes.length))).1 } := by
  rw [decodeCommand, decAsk_eq herr]

/-- DEC_DATA after its checks, when the reserve request is answered OK: the byte loop (R151). -/
theorem decodeCommand_of_reserveOk {s : State} {bytes : List Byte} {d : Decoder} {k : DecSink} {r : Result}
    (hok : s.decSink.answerAt Config.decAnswer 0 = .ok)
    (hloop : decodeBytes bytes s.d (s.decSink.ask (.reserve (decReserveCount s.d bytes.length))).1 = (d, k, r)) :
    decodeCommand bytes s = complete r { s with d := d, decSink := k } := by
  rw [decodeCommand, decAsk_eq hok]
  simp only [hloop]

/-- DEC_DATA after its checks, when `j` writes are answered OK and the next is not (R158, R266). -/
theorem decodeCommand_of_writeError {s : State} {x : SinkError} {C : BitVec 4} {j : Nat} (hC : C.toNat ≤ 8)
    (hd : s.d.Streaming C) (bytes : List Byte)
    (hlen : (j + 1) * blockBytes C.toNat ≤ (liveBytes s.d ++ bytes).length)
    (hk : s.decSink.AnswersOk Config.decAnswer (j + 1)) (herr : s.decSink.answerAt Config.decAnswer (j + 1) = .err x) :
    ∃ d, d.FailedOn C (((liveBytes s.d ++ bytes).drop (j * blockBytes C.toNat)).take (blockBytes C.toNat)) ∧
      decodeCommand bytes s = complete (.sinkErr x) { s with
        d := d
        decSink := s.decSink.afterData Config.decAnswer (decReserveCount s.d bytes.length)
          (((wholeBlocks (blockBytes C.toNat) (liveBytes s.d ++ bytes)).take (j + 1)).map (decodeBlock C.toNat)) } := by
  obtain ⟨d, hfailed, hloop⟩ := hd.decodeBytes_of_writeError hC bytes hlen
    (hk.ask (.reserve (decReserveCount s.d bytes.length))) ((ask_answerAt _ _ _ _).trans herr)
  exact ⟨d, hfailed, decodeCommand_of_reserveOk (hk 0 j.succ_pos) hloop⟩

@[simp] theorem afterData_log {α : Type} {free : Nat → Answer} {k : SinkPort α} (count : Nat) (ws : List α) :
    (k.afterData free count ws).log = k.log ++ .reserve count :: ws.map .write := by
  rw [SinkPort.afterData, askAll_log]

theorem Decoder.Ok.C_le {d : Decoder} (h : d.Ok) (hcfg : d.cfg = true) : d.C.toNat ≤ 8 := by
  obtain ⟨-, hC8, -⟩ := (decoder_ok_iff hcfg).mp h
  exact hC8

/-! ## A decoded block by channels -/

/-- The samples a lane puts out are its codes' run from its pair (R154). -/
theorem foldl_laneStep_out (codes : List Code) (l : Lane) :
    (codes.foldl Lane.step l).out = l.out ++ samplesFrom l.pr codes := by
  induction codes generalizing l with
  | nil => rw [List.foldl_nil, samplesFrom, List.append_nil]
  | cons code codes ih =>
    rw [List.foldl_cons, ih, lane_step_pr, lane_step_out, samplesFrom, List.append_assoc, List.singleton_append]

/-! ## The obligations -/

/-- Settles O21: the byte loop writes the stream's whole blocks and keeps the bytes after them. -/
theorem decDataDecodesTheStream : Obligations.DecDataDecodesTheStream := by
  unfold Obligations.DecDataDecodesTheStream
  intro s items rest hs hok hcfg hpoison hinput b stream hk
  have hC := hok.C_le hcfg
  have hd := hok.streaming hcfg hpoison
  obtain ⟨hend, hcount⟩ := hd.loop (items.map itemByte)
  obtain ⟨hwrites, hleft⟩ := hd.loop_stream hC (items.map itemByte)
  have hstream : stream.length = s.d.len + (items.map itemByte).length := by
    rw [List.length_append, hd.liveBytes_length hC]
  have hanswers : s.decSink.AnswersOk Config.decAnswer
      ((loopWrites Decoder.takeByte (items.map itemByte) s.d).2.length + 1) := by
    rw [hcount, ← hstream, Nat.add_comm]
    exact hk
  obtain ⟨hcfg', hpoison'⟩ := decoder_check_eq_none hend.check
  refine ⟨_, exec_decData_of_answersOk hs hd.check hinput hanswers, ?_, ?_, hleft, hcfg', hend.C_eq, hpoison',
    rfl, rfl, rfl, rfl, rfl, rfl⟩
  · rw [complete_decSink, afterData_log, hwrites, List.map_map, ← List.length_map (f := itemByte),
      hd.decReserveCount_eq hC]
    rfl
  · rw [← bytesLeft_length, ← hleft]
    exact (hend.liveBytes_length hC).symm

/-- Settles O23: a failing reserve request is the command's only one, and the decoder keeps all but its poison flag. -/
theorem decDataReserveErrorPoisons : Obligations.DecDataReserveErrorPoisons := by
  unfold Obligations.DecDataReserveErrorPoisons
  intro s items rest x hs hcfg hpoison hinput herr
  have hexec := exec_decData_of_presented hs (decoder_check_of_ready hcfg hpoison) hinput
  rw [decodeCommand_of_reserveError (s := { s with input := rest }) _ herr] at hexec
  exact ⟨_, hexec, rfl, ⟨_, decAsk_log _ _⟩, rfl, rfl, rfl, rfl, rfl, rfl⟩

/-- Settles O24: the byte loop ends after the stream's first `k + 1` blocks, the last of them still in the buffer. -/
theorem decDataWriteErrorPoisons : Obligations.DecDataWriteErrorPoisons := by
  unfold Obligations.DecDataWriteErrorPoisons
  intro s items rest k x hs hok hcfg hpoison hinput b stream hlen hk herr
  have hC := hok.C_le hcfg
  have hd := hok.streaming hcfg hpoison
  rw [Nat.add_comm] at hk herr
  obtain ⟨d, hfailed, hrun⟩ := decodeCommand_of_writeError (s := { s with input := rest }) hC hd
    (items.map itemByte) hlen hk herr
  have hexec := exec_decData_of_presented hs hd.check hinput
  rw [hrun] at hexec
  refine ⟨_, hexec, hfailed.poison, hfailed.len, hfailed.live, hfailed.cfg, hfailed.C_eq, ?_,
    rfl, rfl, rfl, rfl, rfl, rfl⟩
  rw [complete_decSink, afterData_log, hd.decReserveCount_eq hC, List.map_map]
  rfl

/-- Settles O25: unpacking runs the channels one by one, and a lane puts out its codes' run. -/
theorem decodedChannelDependsOnItsOwnBytes : Obligations.DecodedChannelDependsOnItsOwnBytes := by
  unfold Obligations.DecodedChannelDependsOnItsOwnBytes
  intro n blk
  rw [decodeBlock, unpackBlock_eq_map, List.map_map]
  exact List.map_congr_left (fun c _ => foldl_laneStep_out _ _)

/-- Settles O19: the check of R150 passes exactly on 1 to 8, and such a count fits `D.C`. -/
theorem decInitConfiguresOrFaults : Obligations.DecInitConfiguresOrFaults := by
  unfold Obligations.DecInitConfiguresOrFaults
  intro s ch hs
  refine ⟨fun hch => ?_, fun hch => ?_⟩
  · have hlegal : legalChannelCount ch = true := by simpa [legalChannelCount] using hch
    have hC : (BitVec.ofNat 4 ch).toNat = ch := by rw [BitVec.toNat_ofNat]; omega
    rw [exec, execDecInit, hlegal, if_pos rfl, guarded_pass hs]
    exact ⟨_, rfl, hC, rfl⟩
  · have hillegal : legalChannelCount ch = false := by simpa [legalChannelCount] using hch
    rw [exec, execDecInit, hillegal, if_neg Bool.false_ne_true, guarded_fault hs]
    rfl

end Sys2Proof.Machine
end

section
/-! PROOFS. Predictor initialisation, and what a packed block and the encoder it leaves hold of each channel: header,
codes and shifted window (O36, O37, O38, O40, O41, O42). -/

namespace Sys2Proof.Machine
open Sys2Proof.Claims

/-! ## Predictor initialisation (R185, R186) -/

/-- A step of the decaying average between two samples keeps it below 9363: `(9362 + 65535) / 8` is 9362 (R185). -/
theorem tdiv8_natAbs_lt {avg d : Int} (havg : avg.natAbs < 9363) (hd : d.natAbs ≤ 65535) :
    (tdiv8 (avg + d)).natAbs < 9363 := by
  have hsum : (avg + d).natAbs ≤ avg.natAbs + d.natAbs := Int.natAbs_add_le avg d
  rw [tdiv8, Int.natAbs_tdiv]
  exact Nat.div_lt_of_lt_mul (by omega)

theorem foldl_average_natAbs_lt {W : Nat → Int} (hW : SampleWindow W) (is : List Nat) {avg : Int}
    (havg : avg.natAbs < 9363) :
    (is.foldl (fun avg i => tdiv8 (avg + (W (i + 1) - W i))) avg).natAbs < 9363 := by
  induction is generalizing avg with
  | nil => exact havg
  | cons i is ih =>
    have hi := hW i
    have hsucc := hW (i + 1)
    exact ih (tdiv8_natAbs_lt havg (by omega))

/-- Settles O36: each difference of samples leaves the average below the bound, from 0 on. -/
theorem decayingAverageIsBounded : Obligations.DecayingAverageIsBounded := by
  unfold Obligations.DecayingAverageIsBounded
  exact fun W hW => foldl_average_natAbs_lt hW _ (by decide)

/-- Settles O37: the search for an index runs upward and ends at the first midpoint above the average. -/
theorem selectedIndexIsTheSmallest : Obligations.SelectedIndexIsTheSmallest := by
  unfold Obligations.SelectedIndexIsTheSmallest
  intro avg
  refine ⟨selectIndex_le avg, ?_⟩
  unfold selectIndex
  cases hfind : (List.range Config.maxStepIndex).find? (fun i => decide (avg < (stepMidpoint i : Int))) with
  | none =>
    rw [List.find?_range_eq_none] at hfind
    exact ⟨fun j hj => by simpa [stepMidpoint] using hfind j hj, fun h => absurd h (lt_irrefl _)⟩
  | some i =>
    obtain ⟨habove, -, hbelow⟩ := List.find?_range_eq_some.mp hfind
    exact ⟨fun j hj => by simpa [stepMidpoint] using hbelow j hj, fun _ => of_decide_eq_true habove⟩

/-! ## A channel after predictor initialisation (R187) -/

theorem initPredictors_entry (e : Encoder) {c : Nat} (hc : c < 8) :
    (e.initPredictors.channel c).entry = (e.channel c).entry := by
  funext i
  rw [initPredictors_channel e c hc]
  split
  · exact seed_entry _ i
  · rfl

/-- The index a channel is coded from: selected from the window the first time in a session, then its own. -/
theorem initPredictors_idx {e : Encoder} {c : Nat} (hc : c < e.C.toNat) (h8 : c < 8) :
    (e.initPredictors.channel c).pr.idx =
      if e.pinit = true then (e.channel c).pr.idx else selectIndex (decayingAverage (e.channel c).entry) := by
  rw [initPredictors_channel e c h8]
  cases hp : e.pinit with
  | true => simp
  | false => simp [hc, Channel.seed]

/-! ## The bytes of a packed block -/

theorem packBlock_length (e : Encoder) : e.packBlock.2.length = blockBytes e.C.toNat := by
  rw [← initPredictors_C e]
  exact packedBytes_length e.initPredictors

/-- A byte of channel `c`'s header in a packed block is that channel's own header byte (R90, R189). -/
theorem blockByte_packBlock_header {e : Encoder} {c j : Nat} (hc : c < e.C.toNat) (hj : j < 4) :
    blockByte e.packBlock.2 (4 * c + j) = blockByte (e.initPredictors.channel c).header j := by
  have hc' : c < e.initPredictors.headerFields.length := by simpa using hc
  have hblock : e.packBlock.2 = e.initPredictors.packedBytes := rfl
  rw [hblock, packedBytes_eq, blockByte_header _ hc' hj]
  simp [Encoder.headerFields, Channel.header, blockByte]

/-- Parsing channel `c`'s header of a packed block reads that channel's own header bytes (R153, R189). -/
theorem parseHeader_packBlock_eq {e : Encoder} {c : Nat} (hc : c < e.C.toNat) :
    parseHeader e.packBlock.2 c = parseHeader (e.initPredictors.channel c).header 0 := by
  have h0 := blockByte_packBlock_header hc (j := 0) (by decide)
  have h1 := blockByte_packBlock_header hc (j := 1) (by decide)
  have h2 := blockByte_packBlock_header hc (j := 2) (by decide)
  rw [Nat.add_zero] at h0
  rw [parseHeader, parseHeader, h0, h1, h2]

/-- The header read back from a packed block (R187, R189). -/
theorem parseHeader_packBlock {e : Encoder} {c : Nat} (h8 : e.C.toNat ≤ 8)
    (hrange : ∀ c, c < 8 → (e.channel c).pr.InRange) (hc : c < e.C.toNat) :
    parseHeader e.packBlock.2 c = ⟨(e.channel c).entry 0, (e.initPredictors.channel c).pr.idx⟩ := by
  have hc8 := hc.trans_le h8
  obtain ⟨-, -, hidx⟩ := initPredictors_channel_inRange hrange hc8
  have hread := parseHeader_packedBytes (e := e.initPredictors) (by rwa [initPredictors_C]) hidx
  rwa [initPredictors_entry e hc8] at hread

/-- The codes read back from a packed block (R92, R191). -/
theorem channelCodes_packBlock {e : Encoder} {c : Nat} (hc : c < e.C.toNat) :
    channelCodes e.C.toNat e.packBlock.2 c = ((e.initPredictors.channel c).coded e.L.toNat).2 := by
  have hread := channelCodes_packedBytes (e := e.initPredictors) (by rwa [initPredictors_C])
  rwa [initPredictors_C, initPredictors_L] at hread

/-! ## The codes of the coding loop -/

/-- Code `i` of the loop is the search's choice at its position, from the pair the codes before it lead to (R191). -/
theorem codeSamples_code (la : Nat) (W : Nat → Int) {n i : Nat} (p : Nat) (pr : Predictor) (hi : i < n) :
    (codeSamples la W n p pr).2.getD i 0 =
      (minError W (lookaheadDepth la (p + i)) (((codeSamples la W n p pr).2.take i).foldl advance pr) (p + i)).2 := by
  induction n generalizing p pr i with
  | zero => cases hi
  | succ n ih =>
    rw [codeSamples_succ]
    cases i with
    | zero => rfl
    | succ i =>
      rw [List.getD_cons_succ, List.take_succ_cons, List.foldl_cons, ih _ _ (Nat.lt_of_succ_lt_succ hi),
        Nat.add_right_comm, Nat.add_assoc]

/-- Position `p` of a coded channel (R191, R237). -/
theorem coded_code (la : Nat) (ch : Channel) {p : Nat} (h1 : 1 ≤ p) (h64 : p ≤ 64) :
    (ch.coded la).2.getD (p - 1) 0 =
      (minError ch.entry (min la (65 - p))
        (((ch.coded la).2.take (p - 1)).foldl advance ⟨ch.entry 0, ch.pr.idx⟩) p).2 := by
  obtain ⟨i, rfl⟩ := Nat.exists_eq_add_of_le h1
  unfold Channel.coded
  rw [Nat.add_sub_cancel_left]
  exact codeSamples_code la ch.entry 1 _ (by simp only [Config.samplesPerBlock]; omega)

/-! ## The obligations -/

/-- Settles O38: the block's headers are those of the channels after predictor initialisation. -/
theorem packedHeaderHoldsReferenceAndIndex : Obligations.PackedHeaderHoldsReferenceAndIndex := by
  unfold Obligations.PackedHeaderHoldsReferenceAndIndex
  intro e h8 hrange
  refine ⟨packBlock_pinit e, packBlock_length e, fun c hc => ⟨?_, ?_⟩⟩
  · rw [parseHeader_packBlock h8 hrange hc, initPredictors_idx hc (hc.trans_le h8)]
  · exact blockByte_packBlock_header hc (by decide)

/-- Settles O40: the codes read back are the coding loop's, and the pair left in the channel is where they lead. -/
theorem packedCodesAreTheSearchChoices : Obligations.PackedCodesAreTheSearchChoices := by
  unfold Obligations.PackedCodesAreTheSearchChoices
  intro e h8 hrange c hc W start codes
  have hc8 := hc.trans_le h8
  have hentry : (e.initPredictors.channel c).entry = W := initPredictors_entry e hc8
  have hstart : start = ⟨W 0, (e.initPredictors.channel c).pr.idx⟩ := by
    simp only [start, parseHeader_packBlock h8 hrange hc]
  have hcodes : codes = ((e.initPredictors.channel c).coded e.L.toNat).2 := channelCodes_packBlock hc
  rw [hcodes, hstart, ← hentry]
  refine ⟨?_, fun p h1 h64 => coded_code _ _ h1 h64⟩
  rw [packBlock_channel e c hc8, if_pos hc, packed_pr, coded_pair]

/-- A coded channel's window after a block is the shifted one (R192). -/
theorem packBlock_entry {e : Encoder} {c : Nat} (hc : c < e.C.toNat) (h8 : c < 8) (i : Nat) :
    (e.packBlock.1.channel c).entry i =
      if i = 0 then (e.channel c).entry 64 else if i = 1 then (e.channel c).entry 65 else (e.channel c).entry i := by
  rw [packBlock_channel e c h8, if_pos hc, packed_entry, shift_entry, initPredictors_entry e h8]

/-- Settles O41, by the shift of each coded window. -/
theorem windowShiftKeepsLastTwoEntries : Obligations.WindowShiftKeepsLastTwoEntries := by
  unfold Obligations.WindowShiftKeepsLastTwoEntries
  exact fun e h8 => ⟨packBlock_fill e, fun c hc =>
    ⟨packBlock_entry hc (hc.trans_le h8) 0, packBlock_entry hc (hc.trans_le h8) 1⟩⟩

/-- Settles O42: equal channels are initialised alike, and a block holds each channel's own header and codes. -/
theorem encodedChannelIsIndependent : Obligations.EncodedChannelIsIndependent := by
  unfold Obligations.EncodedChannelIsIndependent
  intro e e' c c' h8 h8' hc hc' hL hpinit hchannel
  have hinit : e.initPredictors.channel c = e'.initPredictors.channel c' := by
    simp only [initPredictors_channel _ _ (hc.trans_le h8), initPredictors_channel _ _ (hc'.trans_le h8'), hc, hc',
      hpinit, hchannel]
  rw [parseHeader_packBlock_eq hc, parseHeader_packBlock_eq hc', channelCodes_packBlock hc, channelCodes_packBlock hc',
    hinit, hL]
  exact ⟨rfl, rfl⟩

end Sys2Proof.Machine
end

section
/-! PROOFS. ENC_DATA on each channel's stream of the buffered and the new samples: which windows it packs and what it
leaves buffered, when every request is answered OK and when one fails (O29, O30, O31, O32, O34, O35). -/

namespace Sys2Proof.Machine
open Sys2Proof.Claims

/-! ## The answer to a request on the encoder's sink port -/

theorem encAsk_answer (k : EncSink) (r : Request (List Byte)) :
    (EncSink.ask r k).2 = k.answerAt Config.encAnswer 0 :=
  ask_answer _ _ _

/-- A request whose answer is known. -/
theorem encAsk_eq {k : EncSink} {a : Answer} (h : k.answerAt Config.encAnswer 0 = a) (r : Request (List Byte)) :
    EncSink.ask r k = ((EncSink.ask r k).1, a) :=
  Prod.ext rfl ((encAsk_answer k r).trans h)

/-! ## The samples of a payload (R87) -/

theorem framesOf_getElem (c : Nat) {n : Nat} (xs : List Sample) {j : Nat} (hj : j < (framesOf c n xs).length) :
    (framesOf c n xs)[j] = (xs.drop (j * c)).take c := by
  induction n generalizing xs j with
  | zero => cases hj
  | succ n ih =>
    cases j with
    | zero => simp [framesOf]
    | succ j => simp [framesOf, ih, Nat.succ_mul, Nat.add_comm]

/-- Sample `c` of frame `j` is item `j * C + c` (R87). -/
theorem payloadFrames_sample {C n : Nat} (samples : List Item) {j c : Nat}
    (hj : j < (payloadFrames C n samples).length) (hc : c < C) :
    ((payloadFrames C n samples)[j]).getD c 0 = itemSample (samples.getD (j * C + c) 0) := by
  have hzero : (0 : Sample) = itemSample 0 := rfl
  simp only [payloadFrames, framesOf_getElem, List.getD_eq_getElem?_getD, List.getElem?_take, hc, if_true,
    List.getElem?_drop, List.getElem?_map, hzero, Option.getD_map]

/-- The frames `fs` carry entries `p`, `p + 1`, ... of the streams `W` of `C` channels (R183). -/
def FramesCarry (W : Nat → Nat → Int) (C p : Nat) (fs : List (List Sample)) : Prop :=
  ∀ j (hj : j < fs.length) c, c < C → (fs[j].getD c 0).toInt = W c (p + j)

section
variable {W : Nat → Nat → Int} {C p : Nat} {f : List Sample} {fs : List (List Sample)}

theorem FramesCarry.head (h : FramesCarry W C p (f :: fs)) {c : Nat} (hc : c < C) : (f.getD c 0).toInt = W c p :=
  h 0 (Nat.succ_pos _) c hc

theorem FramesCarry.tail (h : FramesCarry W C p (f :: fs)) : FramesCarry W C (p + 1) fs := by
  intro j hj c hc
  rw [Nat.add_right_comm]
  exact h (j + 1) (Nat.succ_lt_succ hj) c hc

end

theorem sampleStream_live {e : Encoder} (samples : List Item) (c : Nat) {i : Nat} (hi : i < e.fill) :
    sampleStream e samples c i = (e.channel c).entry i :=
  if_pos hi

theorem sampleStream_payload (e : Encoder) (samples : List Item) (c j : Nat) :
    sampleStream e samples c (e.fill + j) = (itemSample (samples.getD (j * e.C.toNat + c) 0)).toInt := by
  rw [sampleStream, if_neg (by omega), Nat.add_sub_cancel_left]

/-- The payload carries the streams on from the live entries. -/
theorem payloadFrames_carry (e : Encoder) (n : Nat) (samples : List Item) :
    FramesCarry (sampleStream e samples) e.C.toNat e.fill (payloadFrames e.C.toNat n samples) := by
  intro j hj c hc
  rw [payloadFrames_sample samples hj hc, sampleStream_payload]

/-! ## A window that fills up -/

/-- A channel after a frame: its sample at entry `E.fill` if it takes part (R183). -/
theorem pushFrame_channel (e : Encoder) (f : List Sample) {c : Nat} (h8 : c < 8) :
    (e.pushFrame f).channel c =
      if c < e.C.toNat then (e.channel c).setEntry e.fill (f.getD c 0) else e.channel c :=
  channelOf_updateChannels _ _ _ _ h8

theorem pushFrame_pr (e : Encoder) (f : List Sample) {c : Nat} (h8 : c < 8) :
    ((e.pushFrame f).channel c).pr = (e.channel c).pr := by
  rw [pushFrame_channel e f h8]
  split <;> rfl

theorem pushFrame_entry {e : Encoder} (f : List Sample) {c : Nat} (hc : c < e.C.toNat) (h8 : c < 8)
    (hfill : e.fill < 66) (i : Nat) :
    ((e.pushFrame f).channel c).entry i = if i = e.fill then (f.getD c 0).toInt else (e.channel c).entry i := by
  rw [pushFrame_channel e f h8, if_pos hc, entry_setEntry]
  simp only [hfill, and_true]

/-- `e` is `prev` with some frames buffered since: its windows hold the streams `W` from entry `64 * b` on, and nothing
else has changed; with no frame buffered it is `prev` itself (R183). -/
structure Encoder.Buffering (W : Nat → Nat → Int) (b : Nat) (e prev : Encoder) : Prop where
  cfg_eq : e.cfg = prev.cfg
  C_eq : e.C = prev.C
  L_eq : e.L = prev.L
  pinit_eq : e.pinit = prev.pinit
  pr_eq : ∀ c, c < 8 → (e.channel c).pr = (prev.channel c).pr
  entry_eq : ∀ c, c < prev.C.toNat → ∀ i, i < e.fill → (e.channel c).entry i = W c (64 * b + i)
  fill_le : prev.fill ≤ e.fill
  eq_of_fill : e.fill = prev.fill → e = prev

theorem Encoder.Buffering.start {W : Nat → Nat → Int} {b : Nat} {e : Encoder}
    (h : ∀ c, c < e.C.toNat → ∀ i, i < e.fill → (e.channel c).entry i = W c (64 * b + i)) : e.Buffering W b e :=
  ⟨rfl, rfl, rfl, rfl, fun _ _ => rfl, h, le_rfl, fun _ => rfl⟩

section
variable {W : Nat → Nat → Int} {b : Nat} {prev e : Encoder} {f : List Sample} {fs : List (List Sample)}

/-- A frame that carries the streams' next entries keeps the windows on the streams. -/
theorem Encoder.Buffering.pushFrame (h : e.Buffering W b prev) (hC : prev.C.toNat ≤ 8) (hfill : e.fill < 66)
    (hfs : FramesCarry W prev.C.toNat (64 * b + e.fill) (f :: fs)) : (e.pushFrame f).Buffering W b prev where
  cfg_eq := h.cfg_eq
  C_eq := h.C_eq
  L_eq := h.L_eq
  pinit_eq := h.pinit_eq
  pr_eq c h8 := (pushFrame_pr e f h8).trans (h.pr_eq c h8)
  entry_eq c hc i hi := by
    rw [pushFrame_entry f (by rwa [h.C_eq]) (hc.trans_le hC) hfill]
    split
    · next hlast => rw [hlast, hfs.head hc]
    · next hlive => exact h.entry_eq c hc i (lt_of_le_of_ne (Nat.le_of_lt_succ hi) hlive)
  fill_le := h.fill_le.trans (Nat.le_succ _)
  eq_of_fill heq := absurd heq (Nat.lt_succ_of_le h.fill_le).ne'

/-- Packing the full window leaves its last two entries, the first two of the streams' next block (R192). -/
theorem Encoder.Buffering.packBlock (h : e.Buffering W b prev) (hC : prev.C.toNat ≤ 8) (hfull : e.fill = 66) :
    e.packBlock.1.Buffering W (b + 1) e.packBlock.1 := by
  refine .start fun c hc i hi => ?_
  rw [packBlock_C] at hc
  rw [packBlock_fill] at hi
  have hc' : c < prev.C.toNat := h.C_eq ▸ hc
  have hentry := h.entry_eq c hc'
  rw [packBlock_entry hc (hc'.trans_le hC)]
  obtain rfl | rfl : i = 0 ∨ i = 1 := by omega
  · exact hentry 64 (by omega)
  · exact hentry 65 (by omega)

/-- Behind the frame that fills the window, the frames left carry the streams on from the next block (R192). -/
theorem Encoder.Buffering.framesCarry_packBlock (h : e.Buffering W b prev) (hfull : e.fill + 1 = 66)
    (hfs : FramesCarry W prev.C.toNat (64 * b + e.fill) (f :: fs)) :
    FramesCarry W (e.pushFrame f).packBlock.1.C.toNat (64 * (b + 1) + (e.pushFrame f).packBlock.1.fill) fs := by
  have hpos : 64 * (b + 1) + 2 = 64 * b + e.fill + 1 := by omega
  rw [packBlock_C, pushFrame_C, packBlock_fill, h.C_eq, hpos]
  exact hfs.tail

/-- A full window is the next to be packed after `prev`. -/
theorem Encoder.Buffering.packedInTurn_cons (h : e.Buffering W b prev) (hC : prev.C.toNat ≤ 8) (hfull : e.fill = 66)
    {fulls : List Encoder} {last : Encoder} (hrest : PackedInTurn W (b + 1) e.packBlock.1 fulls last) :
    PackedInTurn W b prev (e :: fulls) last :=
  ⟨hfull, h.C_eq, h.L_eq, h.cfg_eq, h.pinit_eq,
    fun c hc => ⟨h.pr_eq c (hc.trans_le hC), fun i hi => h.entry_eq c hc i (by omega)⟩, hrest⟩

end

/-! ## The blocks of a stream -/

/-- The encoder after a run of packings: configured as before, and initialised once a block was packed (R187). -/
theorem packedInTurn_last_eq {W : Nat → Nat → Int} {b : Nat} {prev last : Encoder} {fulls : List Encoder}
    (h : PackedInTurn W b prev fulls last) :
    last.cfg = prev.cfg ∧ last.C = prev.C ∧ last.L = prev.L ∧
      last.pinit = (prev.pinit || decide (0 < fulls.length)) := by
  induction fulls generalizing b prev with
  | nil =>
    obtain rfl : last = prev := h
    simp
  | cons full fulls ih =>
    obtain ⟨-, hC, hL, hcfg, -, -, hrest⟩ := h
    obtain ⟨hcfg', hC', hL', hpinit'⟩ := ih hrest
    rw [packBlock_cfg] at hcfg'
    rw [packBlock_C] at hC'
    rw [packBlock_L] at hL'
    exact ⟨hcfg'.trans hcfg, hC'.trans hC, hL'.trans hL, by simp [hpinit']⟩

/-- The last packing of a run leaves two live entries (R192). -/
theorem packedInTurn_last_fill {W : Nat → Nat → Int} {b : Nat} {prev full last : Encoder} {fulls : List Encoder}
    (h : PackedInTurn W b prev (full :: fulls) last) : last.fill = 2 := by
  induction fulls generalizing b prev full with
  | nil =>
    obtain ⟨-, -, -, -, -, -, hlast⟩ := h
    obtain rfl : last = full.packBlock.1 := hlast
    exact packBlock_fill full
  | cons full' fulls ih =>
    obtain ⟨-, -, -, -, -, -, hrest⟩ := h
    exact ih hrest

theorem packedInTurn_block_length {W : Nat → Nat → Int} {b : Nat} {prev last : Encoder} {fulls : List Encoder}
    (h : PackedInTurn W b prev fulls last) : ∀ full ∈ fulls, full.packBlock.2.length = blockBytes prev.C.toNat := by
  induction fulls generalizing b prev with
  | nil => nofun
  | cons full fulls ih =>
    obtain ⟨-, hC, -, -, -, -, hrest⟩ := h
    refine List.forall_mem_cons.mpr ⟨by rw [packBlock_length, hC], fun full' hmem => ?_⟩
    rw [ih hrest full' hmem, packBlock_C, hC]

/-! ## The frame loop on the streams -/

/-- When every write is answered OK, the frame loop packs the streams' full windows in turn and buffers the samples
after them (R183, R184). -/
theorem Encoder.Buffering.loop_stream {W : Nat → Nat → Int} (fs : List (List Sample)) {b : Nat} {prev e : Encoder}
    (h : e.Buffering W b prev) (hC : prev.C.toNat ≤ 8) (h65 : e.fill ≤ 65)
    (hfs : FramesCarry W prev.C.toNat (64 * b + e.fill) fs) :
    ∃ fulls last, PackedInTurn W b prev fulls last ∧
      (loopWrites Encoder.takeFrame fs e).2 = fulls.map (fun full => full.packBlock.2) ∧
      (loopWrites Encoder.takeFrame fs e).1.Buffering W (b + fulls.length) last := by
  induction fs generalizing b prev e with
  | nil => exact ⟨[], prev, rfl, rfl, h⟩
  | cons f fs ih =>
    have hpush := h.pushFrame hC (Nat.lt_succ_of_le h65) hfs
    by_cases hfull : e.fill + 1 = 66
    · obtain ⟨fulls, last, hturn, hwrites, hend⟩ := ih (hpush.packBlock hC hfull) (by simpa [h.C_eq] using hC)
        (by simp) (h.framesCarry_packBlock hfull hfs)
      rw [loopWrites_cons_some (takeFrame_full f hfull)]
      refine ⟨_ :: fulls, last, hpush.packedInTurn_cons hC hfull hturn, congrArg _ hwrites, ?_⟩
      rwa [List.length_cons, Nat.add_comm fulls.length, ← Nat.add_assoc]
    · rw [loopWrites_cons_none (takeFrame_open f hfull)]
      exact ih hpush hC (by rw [pushFrame_fill]; omega) hfs.tail

/-- When `j` writes are answered OK and the next is not, the frame loop ends after packing the streams' first `j + 1`
full windows (R265, R266). -/
theorem Encoder.Buffering.encodeFrames_of_writeError {W : Nat → Nat → Int} {x : SinkError} (fs : List (List Sample))
    {b j : Nat} {prev e : Encoder} {k : EncSink} (h : e.Buffering W b prev) (hC : prev.C.toNat ≤ 8) (h65 : e.fill ≤ 65)
    (hfs : FramesCarry W prev.C.toNat (64 * b + e.fill) fs) (hlen : 66 + 64 * j ≤ e.fill + fs.length)
    (hk : k.AnswersOk Config.encAnswer j) (herr : k.answerAt Config.encAnswer j = .err x) :
    ∃ fulls last, fulls.length = j + 1 ∧ PackedInTurn W b prev fulls last ∧
      encodeFrames fs e k =
        ({ last with poison := true },
          k.askAll Config.encAnswer (fulls.map (fun full => .write full.packBlock.2)), .sinkErr x) := by
  induction fs generalizing b j prev e k with
  | nil =>
    rw [List.length_nil] at hlen
    omega
  | cons f fs ih =>
    have hpush := h.pushFrame hC (Nat.lt_succ_of_le h65) hfs
    rw [List.length_cons] at hlen
    obtain ⟨hopen, heq⟩ | ⟨hfull, hok, heq⟩ | ⟨hfull, y, hfail, heq⟩ := encodeFrames_cons f fs e k
    · rw [heq]
      exact ih hpush hC (by rw [pushFrame_fill]; omega) hfs.tail (by rw [pushFrame_fill]; omega) hk herr
    · rw [encAsk_answer] at hok
      cases j with
      | zero => cases hok.symm.trans herr
      | succ j =>
        obtain ⟨fulls, last, hcount, hturn, hloop⟩ := ih (hpush.packBlock hC hfull) (by simpa [h.C_eq] using hC)
          (by simp) (h.framesCarry_packBlock hfull hfs)
          (by rw [packBlock_fill]; omega) (hk.ask (.write (e.pushFrame f).packBlock.2))
          ((ask_answerAt _ _ _ _).trans herr)
        exact ⟨_ :: fulls, last, congrArg Nat.succ hcount, hpush.packedInTurn_cons hC hfull hturn, heq.trans hloop⟩
    · rw [encAsk_answer] at hfail
      cases j with
      | zero =>
        cases hfail.symm.trans herr
        exact ⟨[e.pushFrame f], _, rfl, hpush.packedInTurn_cons hC hfull rfl, heq⟩
      | succ j => cases (hk 0 j.succ_pos).symm.trans hfail

/-! ## The command on the streams -/

/-- ENC_DATA after its checks, when the reserve request fails (R181, R266). -/
theorem encodeCommand_of_reserveError {s : State} {x : SinkError} (frames : List (List Sample))
    (herr : s.encSink.answerAt Config.encAnswer 0 = .err x) :
    encodeCommand frames s = complete (.sinkErr x) { s with
      e := { s.e with poison := true }
      encSink := (EncSink.ask (.reserve (encReserveCount s.e frames.length)) s.encSink).1 } := by
  rw [encodeCommand, encAsk_eq herr]

/-- ENC_DATA after its checks, when the reserve request is answered OK: the frame loop (R181). -/
theorem encodeCommand_of_reserveOk {s : State} {frames : List (List Sample)} {e : Encoder} {k : EncSink} {r : Result}
    (hok : s.encSink.answerAt Config.encAnswer 0 = .ok)
    (hloop : encodeFrames frames s.e (EncSink.ask (.reserve (encReserveCount s.e frames.length)) s.encSink).1 =
      (e, k, r)) :
    encodeCommand frames s = complete r { s with e := e, encSink := k } := by
  rw [encodeCommand, encAsk_eq hok]
  simp only [hloop]

theorem Encoder.Ok.C_le {e : Encoder} (h : e.Ok) (hcfg : e.cfg = true) : e.C.toNat ≤ 8 :=
  (h.configured hcfg).le_eight

/-- Before the first frame, the windows hold the front of the streams. -/
theorem buffering_sampleStream (e : Encoder) (samples : List Item) : e.Buffering (sampleStream e samples) 0 e :=
  .start fun c _ i hi => by rw [Nat.mul_zero, Nat.zero_add, sampleStream_live samples c hi]

theorem payloadFrames_carry_zero (e : Encoder) (n : Nat) (samples : List Item) :
    FramesCarry (sampleStream e samples) e.C.toNat (64 * 0 + e.fill) (payloadFrames e.C.toNat n samples) := by
  rw [Nat.mul_zero, Nat.zero_add]
  exact payloadFrames_carry e n samples

section
variable {s : State} {n : Nat} {samples : List Item} {rest : List HostMove} (hs : s.g.halted = false) (hok : s.e.Ok)
  (hcfg : s.e.cfg = true) (hpoison : s.e.poison = false) (hn : n < 4294967296)
  (hlen : samples.length = n * s.e.C.toNat) (hinput : s.input = presented (encPayload s.e.C.toNat n samples) rest)

include hs hok hcfg hpoison hn hlen hinput

/-- ENC_DATA when every request is answered OK: the full windows of the streams packed in turn and written, and the
samples after them buffered (R181 to R184, R193). -/
theorem exec_encData_stream (hk : EncAnswersOk s.encSink (1 + blocksEmitted s.e.fill n)) :
    ∃ e fulls last, PackedInTurn (sampleStream s.e samples) 0 s.e fulls last ∧
      e.Buffering (sampleStream s.e samples) fulls.length last ∧ fulls.length = blocksEmitted s.e.fill n ∧
      e.fill + 64 * blocksEmitted s.e.fill n = s.e.fill + n ∧ e.poison = false ∧
      exec (.encData s.e.C.toNat) s = .next (complete .ok { s with
        input := rest
        e := e
        encSink := s.encSink.afterData Config.encAnswer (encReserveCount s.e n)
          (fulls.map (fun full => full.packBlock.2)) }) := by
  have he := hok.streaming hcfg hpoison
  obtain ⟨hend, hcount⟩ := he.loop (payloadFrames s.e.C.toNat n samples)
  obtain ⟨-, hlevel⟩ := loopWrites_keeps_level (step := Encoder.takeFrame) (Keeps := Encoder.Streaming s.e.C)
    (level := Encoder.fill) (fun _ f he => ⟨(he.takeFrame f).1.1, (he.takeFrame f).2⟩)
    (payloadFrames s.e.C.toNat n samples) he
  obtain ⟨fulls, last, hturn, hwrites, hbuffering⟩ := (buffering_sampleStream s.e samples).loop_stream _ (hok.C_le hcfg)
    he.fill_le (payloadFrames_carry_zero s.e n samples)
  rw [payloadFrames_length] at hcount hlevel
  have hexec := exec_encData_of_answersOk hs he hn hlen hinput (by rw [hcount, Nat.add_comm]; exact hk)
  rw [hcount] at hlevel
  rw [hwrites] at hexec hcount
  rw [Nat.zero_add] at hbuffering
  exact ⟨_, fulls, last, hturn, hbuffering, by rwa [List.length_map] at hcount, by omega,
    (encoder_check_eq_none hend.check).2, hexec⟩

/-- ENC_DATA when `k` writes are answered OK and the next is not (R265, R266). -/
theorem exec_encData_of_writeError {k : Nat} {x : SinkError} (hfull : 66 + 64 * k ≤ s.e.fill + n)
    (hk : s.encSink.AnswersOk Config.encAnswer (k + 1)) (herr : s.encSink.answerAt Config.encAnswer (k + 1) = .err x) :
    ∃ fulls last, fulls.length = k + 1 ∧ PackedInTurn (sampleStream s.e samples) 0 s.e fulls last ∧
      exec (.encData s.e.C.toNat) s = .next (complete (.sinkErr x) { s with
        input := rest
        e := { last with poison := true }
        encSink := s.encSink.afterData Config.encAnswer (encReserveCount s.e n)
          (fulls.map (fun full => full.packBlock.2)) }) := by
  have he := hok.streaming hcfg hpoison
  obtain ⟨fulls, last, hcount, hturn, hloop⟩ := (buffering_sampleStream s.e samples).encodeFrames_of_writeError
    (payloadFrames s.e.C.toNat n samples) (hok.C_le hcfg) he.fill_le (payloadFrames_carry_zero s.e n samples)
    (by rwa [payloadFrames_length])
    (hk.ask (.reserve (encReserveCount s.e (payloadFrames s.e.C.toNat n samples).length)))
    ((ask_answerAt _ _ _ _).trans herr)
  refine ⟨fulls, last, hcount, hturn, ?_⟩
  rw [exec_encData_of_presented hs he.check he.one_le_C hn hlen hinput,
    encodeCommand_of_reserveOk (s := { s with input := rest }) (hk 0 k.succ_pos) hloop, payloadFrames_length,
    SinkPort.afterData, List.map_map]
  rfl

end

/-! ## The obligations -/

/-- Settles O31: the blocks are those of the streams' full windows, one write each. -/
theorem encDataEmitsABlockPerFullWindow : Obligations.EncDataEmitsABlockPerFullWindow := by
  unfold Obligations.EncDataEmitsABlockPerFullWindow
  intro s n samples rest hs hok hcfg hpoison hn hlen hinput hk
  obtain ⟨e, fulls, last, hturn, hbuffering, hcount, hfill, hpoison', hexec⟩ :=
    exec_encData_stream hs hok hcfg hpoison hn hlen hinput hk
  obtain ⟨hcfg', hC', hL', hpinit'⟩ := packedInTurn_last_eq hturn
  rw [hcount] at hpinit'
  refine ⟨_, fulls.map (fun full : Encoder => full.packBlock.2), hexec, afterData_log _ _,
    by rw [List.length_map, hcount], ?_, hfill, hbuffering.pinit_eq.trans hpinit',
    hbuffering.cfg_eq.trans (hcfg'.trans hcfg), hbuffering.C_eq.trans hC',
    hbuffering.L_eq.trans hL', hpoison', rfl, rfl, rfl, rfl, rfl, rfl⟩
  exact List.forall_mem_map.mpr (packedInTurn_block_length hturn)

/-- Settles O30: no window becomes full, so the encoder left is the old one with the frames buffered. -/
theorem encDataBuffersFrames : Obligations.EncDataBuffersFrames := by
  unfold Obligations.EncDataBuffersFrames
  intro s n samples rest hs hok hcfg hpoison hn hlen hinput h65 hk
  have hnone : blocksEmitted s.e.fill n = 0 := by unfold blocksEmitted; omega
  obtain ⟨e, fulls, last, hturn, hbuffering, hcount, hfill, hpoison', hexec⟩ :=
    exec_encData_stream hs hok hcfg hpoison hn hlen hinput (by rwa [hnone])
  rw [hnone] at hcount hfill
  obtain rfl := List.eq_nil_of_length_eq_zero hcount
  obtain rfl : last = s.e := hturn
  have hentry : ∀ c, c < s.e.C.toNat → ∀ i, i < s.e.fill + n → (e.channel c).entry i = sampleStream s.e samples c i :=
    fun c hc i hi => by simpa using hbuffering.entry_eq c hc i (by omega)
  refine ⟨_, hexec, hfill, fun c hc => ⟨fun j hj => ?_, fun i hi => ?_⟩, hbuffering.pr_eq, hbuffering.cfg_eq.trans hcfg,
    hbuffering.C_eq, hbuffering.L_eq, hbuffering.pinit_eq, hpoison', afterData_log _ _, rfl, rfl, rfl, rfl, rfl, rfl⟩
  · exact (hentry c hc _ (by omega)).trans (sampleStream_payload s.e samples c j)
  · exact (hentry c hc i (by omega)).trans (sampleStream_live samples c hi)

/-- Settles O32: one window becomes full, with the last frame, so the encoder left is the packed one. -/
theorem encDataPacksTheFullWindow : Obligations.EncDataPacksTheFullWindow := by
  unfold Obligations.EncDataPacksTheFullWindow
  intro s n samples rest hs hok hcfg hpoison hlen hinput h66 hk
  have hone : blocksEmitted s.e.fill n = 1 := by unfold blocksEmitted; omega
  obtain ⟨e, fulls, last, hturn, hbuffering, hcount, hfill, -, hexec⟩ :=
    exec_encData_stream hs hok hcfg hpoison (by omega) hlen hinput (by rwa [hone])
  rw [hone] at hcount hfill
  obtain ⟨full, rfl⟩ := List.length_eq_one_iff.mp hcount
  obtain ⟨hfull, hC, hL, -, hpinit, hchannel, hlast⟩ := hturn
  obtain rfl : last = full.packBlock.1 := hlast
  obtain rfl : e = full.packBlock.1 := hbuffering.eq_of_fill (by rw [packBlock_fill]; omega)
  refine ⟨_, full, hexec, hfull, hC, hL, hpinit, fun c hc => ?_, afterData_log _ _, rfl, rfl, rfl, rfl, rfl, rfl, rfl⟩
  obtain ⟨hpr, hentry⟩ := hchannel c hc
  simp only [Nat.mul_zero, Nat.zero_add] at hentry
  refine ⟨hpr, fun j hj => ?_, fun i hi => ?_⟩
  · exact (hentry _ (by omega)).trans (sampleStream_payload s.e samples c j)
  · exact (hentry i (by omega)).trans (sampleStream_live samples c hi)

/-- Settles O34: a failing reserve request is the command's only one, and the encoder keeps all but its poison flag. -/
theorem encDataReserveErrorPoisons : Obligations.EncDataReserveErrorPoisons := by
  unfold Obligations.EncDataReserveErrorPoisons
  intro s n samples rest x hs hC hcfg hpoison hn hlen hinput herr
  have hexec := exec_encData_of_presented hs (encoder_check_of_ready hcfg hpoison) hC hn hlen hinput
  rw [encodeCommand_of_reserveError (s := { s with input := rest }) _ herr] at hexec
  exact ⟨_, hexec, rfl, ⟨_, encAsk_log _ _⟩, rfl, rfl, rfl, rfl, rfl, rfl⟩

/-- Settles O35: the frame loop ends after packing the streams' first `k + 1` full windows. -/
theorem encDataWriteErrorPoisons : Obligations.EncDataWriteErrorPoisons := by
  unfold Obligations.EncDataWriteErrorPoisons
  intro s n samples rest k x hs hok hcfg hpoison hn hlen hinput hfull hk herr
  rw [Nat.add_comm] at hk herr
  obtain ⟨fulls, last, hcount, hturn, hexec⟩ :=
    exec_encData_of_writeError hs hok hcfg hpoison hn hlen hinput hfull hk herr
  obtain ⟨hcfg', hC', hL', hpinit'⟩ := packedInTurn_last_eq hturn
  obtain ⟨full, fulls, rfl⟩ := List.exists_cons_of_length_eq_add_one hcount
  have hfill : last.fill = 2 := packedInTurn_last_fill hturn
  refine ⟨_, _, last, hexec, hcount, hturn, rfl, hfill, by simpa using hpinit', hcfg'.trans hcfg, hC', hL', ?_,
    packedInTurn_block_length hturn, rfl, rfl, rfl, rfl, rfl, rfl⟩
  rw [complete_encSink, afterData_log, List.map_map]
  rfl

/-- Equal lengths, one for each of the `E.C` arrays, are what the check of R181 asks. -/
theorem arraysMatch_map_itemLength {narr C : Nat} {lens : List Item}
    (h : arraysMatch narr C (lens.map itemLength) = true) : narr = C ∧ ∀ a ∈ lens, ∀ b ∈ lens, a = b := by
  simp only [arraysMatch, Bool.and_eq_true, decide_eq_true_eq, List.all_eq_true, beq_iff_eq,
    List.forall_mem_map] at h
  obtain ⟨hcount, hall⟩ := h
  exact ⟨hcount, fun a ha b hb => BitVec.eq_of_toNat_eq ((hall a ha).trans (hall b hb).symm)⟩

/-- Settles O29: a wrong count or two lengths that differ fail the check, which comes right after the lengths. -/
theorem encDataArrayMismatchFaults : Obligations.EncDataArrayMismatchFaults := by
  unfold Obligations.EncDataArrayMismatchFaults
  intro s lens rest hs hcfg hpoison hinput hwrong
  have htake : takeItems lens.length s.input = some (lens, rest) := by
    rw [hinput]; exact takeItems_of_items lens rest
  have hmatch : arraysMatch lens.length s.e.C.toNat (lens.map itemLength) = false := by
    refine Bool.eq_false_iff.mpr fun h => ?_
    obtain ⟨hcount, hequal⟩ := arraysMatch_map_itemLength h
    obtain hne | ⟨a, ha, b, hb, hab⟩ := hwrong
    · exact hne hcount
    · exact hab (hequal a ha b hb)
  rw [exec, execEncData, encoder_check_of_ready hcfg hpoison, guarded_pass hs, htake]
  simp only [hmatch]
  rfl

end Sys2Proof.Machine
end

section
/-! PROOFS. The commands that begin and end a session: ENC_INIT, ENC_FINISH and ENC_RESET (O28, O43, O44, O45, O46). -/

namespace Sys2Proof.Machine
open Sys2Proof.Claims

/-! ## The padded windows (R194) -/

/-- Zeros at the entries `is`. -/
theorem foldl_setEntry_zero_entry (is : List Nat) (ch : Channel) {i : Nat} (hi : i < 66) :
    (is.foldl (fun c j => c.setEntry j 0) ch).entry i = if i ∈ is then 0 else ch.entry i := by
  induction is generalizing ch with
  | nil => rfl
  | cons j is ih =>
    rw [List.foldl_cons, ih, entry_setEntry]
    by_cases hmem : i ∈ is
    · simp [hmem]
    · by_cases hij : i = j
      · subst hij; simp [hi]
      · simp [hmem, hij]

theorem channel_pad_entry (fill : Nat) (ch : Channel) {i : Nat} (hi : i < 66) :
    (ch.pad fill).entry i = if i < fill then ch.entry i else 0 := by
  have hmem : i ∈ List.range' fill (66 - fill) ↔ ¬ i < fill := by rw [List.mem_range'_1]; omega
  unfold Channel.pad
  rw [foldl_setEntry_zero_entry _ _ hi]
  simp only [hmem, ite_not]

theorem pad_channel (e : Encoder) {c : Nat} (h8 : c < 8) :
    e.pad.channel c = if c < e.C.toNat then (e.channel c).pad e.fill else e.channel c :=
  channelOf_updateChannels _ _ _ _ h8

/-- A channel of the padded encoder: its pair as before, zeros behind its live entries. -/
theorem pad_channel_eq (e : Encoder) {c : Nat} (hc : c < e.C.toNat) (h8 : c < 8) :
    (e.pad.channel c).pr = (e.channel c).pr ∧
      ∀ i, i < 66 → (e.pad.channel c).entry i = if i < e.fill then (e.channel c).entry i else 0 := by
  rw [pad_channel e h8, if_pos hc]
  exact ⟨channel_pad_pr _ _, fun i hi => channel_pad_entry _ _ hi⟩

/-! ## A session's end (R195) -/

theorem resetSession_channel (e : Encoder) {c : Nat} (h8 : c < 8) :
    e.resetSession.channel c = (e.channel c).setEntry 0 0 :=
  channelOf_updateAll _ _ _ h8

theorem setEntry_zero_entry (ch : Channel) (i : Nat) :
    (ch.setEntry 0 0).entry i = if i = 0 then 0 else ch.entry i := by
  simp [entry_setEntry]

theorem resetSession_entry_zero (e : Encoder) {c : Nat} (h8 : c < 8) : (e.resetSession.channel c).entry 0 = 0 := by
  rw [resetSession_channel e h8, setEntry_zero_entry, if_pos rfl]

/-! ## The commands after their checks -/

theorem exec_encFinish_of_ready {s : State} (hs : s.g.halted = false) (hcheck : s.e.check = none) :
    exec .encFinish s = .next (finishCommand s) := by
  rw [exec, execEncFinish, hcheck, guarded_pass hs]

theorem exec_encReset_of_ready {s : State} (hs : s.g.halted = false) (hcheck : s.e.check = none) :
    exec .encReset s = .next (complete .ok { s with e := s.e.resetSession }) := by
  rw [exec, execEncReset, hcheck, guarded_pass hs]

theorem finishCommand_of_empty {s : State} (hfill : s.e.fill ≤ 1) :
    finishCommand s = complete .ok { s with e := s.e.resetSession } := by
  rw [finishCommand, if_neg (by omega)]

theorem emitBlock_of_writeOk {e : Encoder} {k : EncSink} (hok : k.answerAt Config.encAnswer 0 = .ok) :
    e.emitBlock k = (e.packBlock.1, (EncSink.ask (.write e.packBlock.2) k).1, .ok) := by
  rw [Encoder.emitBlock, encAsk_eq hok]

theorem emitBlock_of_writeError {e : Encoder} {k : EncSink} {x : SinkError}
    (herr : k.answerAt Config.encAnswer 0 = .err x) :
    e.emitBlock k = ({ e.packBlock.1 with poison := true }, (EncSink.ask (.write e.packBlock.2) k).1, .sinkErr x) := by
  rw [Encoder.emitBlock, encAsk_eq herr]

/-- ENC_FINISH with a sample buffered, when its write is answered OK (R194). -/
theorem finishCommand_of_writeOk {s : State} (hfill : 2 ≤ s.e.fill)
    (hok : s.encSink.answerAt Config.encAnswer 0 = .ok) :
    finishCommand s = complete .ok { s with
      e := s.e.pad.packBlock.1.resetSession
      encSink := (EncSink.ask (.write s.e.pad.packBlock.2) s.encSink).1 } := by
  rw [finishCommand, if_pos hfill, emitBlock_of_writeOk hok]

/-- ENC_FINISH with a sample buffered, when its write fails (R194, R266). -/
theorem finishCommand_of_writeError {s : State} {x : SinkError} (hfill : 2 ≤ s.e.fill)
    (herr : s.encSink.answerAt Config.encAnswer 0 = .err x) :
    finishCommand s = complete (.sinkErr x) { s with
      e := { s.e.pad.packBlock.1 with poison := true }
      encSink := (EncSink.ask (.write s.e.pad.packBlock.2) s.encSink).1 } := by
  rw [finishCommand, if_pos hfill, emitBlock_of_writeError herr]

/-! ## The obligations -/

/-- Settles O43: the block is the padded encoder's, whose packing ends the session. -/
theorem encFinishEmitsThePaddedBlock : Obligations.EncFinishEmitsThePaddedBlock := by
  unfold Obligations.EncFinishEmitsThePaddedBlock
  intro s hs hok hcfg hpoison hfill hk
  have hexec := exec_encFinish_of_ready hs (encoder_check_of_ready hcfg hpoison)
  rw [finishCommand_of_writeOk hfill (hk 0 Nat.one_pos)] at hexec
  refine ⟨_, s.e.pad, hexec, pad_fill _, pad_C _, pad_L _, pad_pinit _,
    fun c hc => pad_channel_eq s.e hc (hc.trans_le (hok.C_le hcfg)), encAsk_log _ _, packBlock_length _, rfl, rfl,
    fun c h8 => resetSession_entry_zero _ h8, ?_, ?_, ?_, ?_, rfl, rfl, rfl, rfl, rfl, rfl⟩
  all_goals simp [hcfg, hpoison]

/-- Settles O44: with at most the reference entry live, the command is the session's reset alone. -/
theorem encFinishWithNothingBuffered : Obligations.EncFinishWithNothingBuffered := by
  unfold Obligations.EncFinishWithNothingBuffered
  intro s hs hcfg hpoison hfill
  have hexec := exec_encFinish_of_ready hs (encoder_check_of_ready hcfg hpoison)
  rw [finishCommand_of_empty hfill] at hexec
  exact ⟨_, hexec, rfl, rfl, rfl, fun c h8 => resetSession_entry_zero _ h8, hcfg, rfl, rfl, hpoison,
    rfl, rfl, rfl, rfl, rfl, rfl⟩

/-- Settles O45: the encoder left is the padded one, packed; the session's reset is skipped. -/
theorem encFinishWriteErrorPoisons : Obligations.EncFinishWriteErrorPoisons := by
  unfold Obligations.EncFinishWriteErrorPoisons
  intro s x hs hcfg hpoison hfill herr
  have hexec := exec_encFinish_of_ready hs (encoder_check_of_ready hcfg hpoison)
  rw [finishCommand_of_writeError hfill herr] at hexec
  refine ⟨_, s.e.pad, hexec, pad_fill _, pad_C _, pad_L _, pad_pinit _, fun c hc h8 => pad_channel_eq s.e hc h8,
    rfl, ?_, rfl, ?_, ?_, ?_, encAsk_log _ _, rfl, rfl, rfl, rfl, rfl, rfl⟩
  all_goals simp [hcfg]

/-- Settles O46: the session's reset writes entry 0 of each window, `E.fill` and `E.pinit` alone. -/
theorem encResetDropsTheSession : Obligations.EncResetDropsTheSession := by
  unfold Obligations.EncResetDropsTheSession
  intro s hs hcfg hpoison
  refine ⟨_, exec_encReset_of_ready hs (encoder_check_of_ready hcfg hpoison), rfl, rfl, hcfg, rfl, rfl, hpoison,
    fun c h8 => ?_, rfl, rfl, rfl, rfl, rfl, rfl, rfl⟩
  rw [complete_e, resetSession_channel _ h8]
  exact ⟨setEntry_pr _ _ _, setEntry_zero_entry _⟩

/-- Settles O28: the check of R180 passes exactly on 1 to 8; such a count fits `E.C`, and `la` fits `E.L`. -/
theorem encInitConfiguresOrFaults : Obligations.EncInitConfiguresOrFaults := by
  unfold Obligations.EncInitConfiguresOrFaults
  intro s ch la hs hla
  refine ⟨fun hch => ?_, fun hch => ?_⟩
  · have hlegal : legalChannelCount ch = true := by simpa [legalChannelCount] using hch
    have hC : (BitVec.ofNat 4 ch).toNat = ch := by rw [BitVec.toNat_ofNat]; omega
    have hL : (BitVec.ofNat 8 la).toNat = la := by rw [BitVec.toNat_ofNat]; omega
    rw [exec, execEncInit, hlegal, if_pos rfl, guarded_pass hs]
    refine ⟨_, rfl, hC, hL, fun c h8 => ?_, rfl, rfl, rfl, rfl, rfl, rfl, rfl, rfl, rfl, rfl, rfl⟩
    rw [complete_e, Encoder.channel, channelOf_updateAll _ _ _ h8]
    exact ⟨rfl, setEntry_zero_entry _ 0⟩
  · have hillegal : legalChannelCount ch = false := by simpa [legalChannelCount] using hch
    rw [exec, execEncInit, hillegal, if_neg Bool.false_ne_true, guarded_fault hs]
    rfl

end Sys2Proof.Machine
end

section
/-! PROOFS. The lookahead search: the prune is exact, the least total wins under the tie rules, and its errors are bounded
(O47 to O49). -/

namespace Sys2Proof.Machine
open Sys2Proof.Claims

/-! ## The search without its prune -/

/-- One candidate of the loop with the prune removed: its total replaces the best only when strictly smaller (R236). -/
def keepSmaller (total : Code → Nat) (best : Nat × Code) (k : Code) : Nat × Code :=
  if total k < best.1 then (total k, k) else best

/-- A pruned candidate's total is at least its immediate error, so it could not have replaced the best (R236). -/
theorem tryCode_eq_keepSmaller (immediate future : Code → Nat) :
    tryCode immediate future = keepSmaller (fun k => immediate k + future k) := by
  funext best k
  unfold tryCode keepSmaller
  by_cases himm : immediate k < best.1
  · rw [if_pos himm]
  · have hkept : ¬ immediate k + future k < best.1 := by omega
    rw [if_neg himm, if_neg hkept]

/-- One level of the search is the unpruned loop over the totals, begun at the first guess (R233, R236). -/
theorem minError_succ_eq_foldl (W : Nat → Int) (d : Nat) (pr : Predictor) (p : Nat) :
    minError W (d + 1) pr p =
      (otherCodes (firstGuess pr (W p))).foldl (keepSmaller (totalError W d pr p))
        (totalError W d pr p (firstGuess pr (W p)), firstGuess pr (W p)) := by
  rw [minError_succ, tryCode_eq_keepSmaller]
  rfl

theorem bruteForce_succ (W : Nat → Int) (d : Nat) (pr : Predictor) (p : Nat) :
    bruteForce W (d + 1) pr p =
      (otherCodes (firstGuess pr (W p))).foldl
        (keepSmaller (fun k => codeError pr (W p) k + (bruteForce W d (advance pr k) (p + 1)).1))
        (codeError pr (W p) (firstGuess pr (W p)) +
          (bruteForce W d (advance pr (firstGuess pr (W p))) (p + 1)).1, firstGuess pr (W p)) := rfl

/-- Settles O47: by induction on the depth, both searches run one loop over equal totals. -/
theorem pruningNeverChangesTheResult : Obligations.PruningNeverChangesTheResult := by
  unfold Obligations.PruningNeverChangesTheResult
  intro W d
  induction d with
  | zero => exact fun _ _ => rfl
  | succ d ih =>
    intro pr p
    simp only [minError_succ_eq_foldl, bruteForce_succ, ← ih]
    rfl

/-! ## What the loop keeps -/

section
variable (total : Code → Nat)

theorem foldl_keepSmaller_reaches (ks : List Code) (g : Code) :
    (ks.foldl (keepSmaller total) (total g, g)).1 = total (ks.foldl (keepSmaller total) (total g, g)).2 := by
  induction ks generalizing g with
  | nil => rfl
  | cons k ks ih =>
    rw [List.foldl_cons, keepSmaller]
    split
    · exact ih k
    · exact ih g

theorem foldl_keepSmaller_le (ks : List Code) (best : Nat × Code) :
    (ks.foldl (keepSmaller total) best).1 ≤ best.1 ∧ ∀ k ∈ ks, (ks.foldl (keepSmaller total) best).1 ≤ total k := by
  induction ks generalizing best with
  | nil => exact ⟨le_rfl, by simp⟩
  | cons k ks ih =>
    obtain ⟨hbest, hrest⟩ := ih (keepSmaller total best k)
    have hstep : (keepSmaller total best k).1 ≤ best.1 ∧ (keepSmaller total best k).1 ≤ total k := by
      unfold keepSmaller
      split
      · next hbetter => exact ⟨hbetter.le, le_rfl⟩
      · next hkept => exact ⟨le_rfl, Nat.le_of_not_lt hkept⟩
    exact ⟨hbest.trans hstep.1, List.forall_mem_cons.mpr ⟨hbest.trans hstep.2, hrest⟩⟩

/-- Over ascending candidates the loop ends at its first code, or at a strictly better candidate that is the smallest of
those as good (R234). -/
theorem foldl_keepSmaller_winner {ks : List Code} (hasc : ks.Pairwise (fun j k => j.toNat < k.toNat)) (g : Code) :
    (ks.foldl (keepSmaller total) (total g, g)).2 = g ∨
    (total (ks.foldl (keepSmaller total) (total g, g)).2 < total g ∧
      ∀ k ∈ ks, total k = total (ks.foldl (keepSmaller total) (total g, g)).2 →
        (ks.foldl (keepSmaller total) (total g, g)).2.toNat ≤ k.toNat) := by
  induction ks generalizing g with
  | nil => exact .inl rfl
  | cons k ks ih =>
    obtain ⟨hk, hks⟩ := List.pairwise_cons.mp hasc
    rw [List.foldl_cons, keepSmaller]
    split
    · next hbetter =>
      right
      rcases ih hks k with hwin | ⟨hlt, hleast⟩
      · rw [hwin]
        exact ⟨hbetter, List.forall_mem_cons.mpr ⟨fun _ => le_rfl, fun j hj _ => (hk j hj).le⟩⟩
      · exact ⟨hlt.trans hbetter, List.forall_mem_cons.mpr ⟨fun htie => absurd htie hlt.ne', hleast⟩⟩
    · next hkept =>
      refine (ih hks g).imp_right fun ⟨hlt, hleast⟩ => ⟨hlt, List.forall_mem_cons.mpr ⟨fun htie => ?_, hleast⟩⟩
      exact absurd (htie ▸ hlt) hkept

end

/-! ## The candidates -/

theorem mem_otherCodes {g k : Code} : k ∈ otherCodes g ↔ k ≠ g := by
  have hall : ∀ k : Code, k ∈ (List.range 16).map (BitVec.ofNat 4) := by decide
  simp only [otherCodes, List.mem_filter, hall k, true_and, bne_iff_ne]

/-- The candidates come in ascending order (R234). -/
theorem otherCodes_ascending (g : Code) : (otherCodes g).Pairwise (fun j k => j.toNat < k.toNat) := by
  have hall : ((List.range 16).map (BitVec.ofNat 4)).Pairwise (fun j k => j.toNat < k.toNat) := by decide
  exact hall.filter _

/-! ## The least total -/

theorem minError_succ_reaches (W : Nat → Int) (d : Nat) (pr : Predictor) (p : Nat) :
    (minError W (d + 1) pr p).1 = totalError W d pr p (minError W (d + 1) pr p).2 := by
  rw [minError_succ_eq_foldl]
  exact foldl_keepSmaller_reaches _ _ _

/-- With lookahead no code's total is below the search's error (R235). -/
theorem minError_succ_le (W : Nat → Int) (d : Nat) (pr : Predictor) (p : Nat) (k : Code) :
    (minError W (d + 1) pr p).1 ≤ totalError W d pr p k := by
  rw [minError_succ_eq_foldl]
  obtain ⟨hguess, hothers⟩ := foldl_keepSmaller_le (totalError W d pr p) (otherCodes (firstGuess pr (W p)))
    (totalError W d pr p (firstGuess pr (W p)), firstGuess pr (W p))
  by_cases hk : k = firstGuess pr (W p)
  · exact hk ▸ hguess
  · exact hothers k (mem_otherCodes.mpr hk)

/-- The code chosen is the first guess, or strictly better than it and the smallest of the other codes as good (R234). -/
theorem minError_succ_winner (W : Nat → Int) (d : Nat) (pr : Predictor) (p : Nat) :
    (minError W (d + 1) pr p).2 = firstGuess pr (W p) ∨
    (totalError W d pr p (minError W (d + 1) pr p).2 < totalError W d pr p (firstGuess pr (W p)) ∧
      ∀ k, k ≠ firstGuess pr (W p) → totalError W d pr p k = totalError W d pr p (minError W (d + 1) pr p).2 →
        (minError W (d + 1) pr p).2.toNat ≤ k.toNat) := by
  rw [minError_succ_eq_foldl]
  simpa only [mem_otherCodes] using foldl_keepSmaller_winner (totalError W d pr p) (otherCodes_ascending _) _

/-- Settles O48: a winner other than the first guess is strictly better than it, which decides both tie rules. -/
theorem searchReturnsTheLeastTotal : Obligations.SearchReturnsTheLeastTotal := by
  unfold Obligations.SearchReturnsTheLeastTotal
  intro W d pr p
  have hreach := minError_succ_reaches W d pr p
  refine ⟨hreach, minError_succ_le W d pr p, ?_⟩
  rcases minError_succ_winner W d pr p with hguess | ⟨hlt, hleast⟩
  · exact ⟨fun _ => hguess, fun hne => absurd hguess hne⟩
  · refine ⟨fun htie => absurd (hreach.symm.trans htie.symm) hlt.ne, fun _ k htie => ?_⟩
    have hcode := htie.trans hreach
    exact hleast k (fun hk => hlt.ne' (hk ▸ hcode)) hcode

/-! ## Bounds -/

/-- A sample and a clamped value differ by at most 65535 (R231). -/
theorem codeError_le {t : Int} (hlo : -32768 ≤ t) (hhi : t ≤ 32767) (pr : Predictor) (k : Code) :
    codeError pr t k ≤ 65535 ^ 2 := by
  obtain ⟨hpredLo, hpredHi, -⟩ := advance_inRange pr k
  have hdist : ((advance pr k).pred - t).natAbs ≤ 65535 := by omega
  exact Nat.pow_le_pow_left hdist 2

/-- Each level of the search adds at most one immediate error: the first guess's total bounds the least (R238). -/
theorem minError_le {W : Nat → Int} (hW : SampleWindow W) (d : Nat) (pr : Predictor) (p : Nat) :
    (minError W d pr p).1 ≤ (d + 1) * 65535 ^ 2 := by
  induction d generalizing pr p with
  | zero =>
    rw [minError_zero, Nat.zero_add, Nat.one_mul]
    exact codeError_le (hW p).1 (hW p).2 _ _
  | succ d ih =>
    have hguess := codeError_le (hW p).1 (hW p).2 pr (firstGuess pr (W p))
    have hfuture := ih (advance pr (firstGuess pr (W p))) (p + 1)
    calc (minError W (d + 1) pr p).1
        ≤ totalError W d pr p (firstGuess pr (W p)) := minError_succ_le W d pr p _
      _ ≤ 65535 ^ 2 + (d + 1) * 65535 ^ 2 := Nat.add_le_add hguess hfuture
      _ = (d + 1 + 1) * 65535 ^ 2 := by ring

/-- Settles O49: 65 errors of at most 65535 squared stay below 2^39. -/
theorem searchErrorsAreBounded : Obligations.SearchErrorsAreBounded := by
  unfold Obligations.SearchErrorsAreBounded
  intro W d pr p hW
  refine ⟨codeError_le (hW p).1 (hW p).2 pr, fun hd => ?_⟩
  have hsum := minError_le hW d pr p
  omega

end Sys2Proof.Machine
end

section
/-! PROOFS. Faults and the halted state: what a fault writes, what a halted core answers, how it is left, and the checks that
make the data commands fault (O51, O53, O6, O7, O20). -/

namespace Sys2Proof.Machine
open Sys2Proof.Claims

/-! ## The halted core -/

/-- Every command is guarded, so a halted core runs none (R263). -/
theorem exec_command_of_halted {i : Instr} {s : State} (hi : isCommand i = true) (hs : s.g.halted = true) :
    exec i s = .fault .halted := by
  cases i with
  | decInit => rw [exec, execDecInit, guarded_halted hs]
  | decData => rw [exec, execDecData, guarded_halted hs]
  | encInit => rw [exec, execEncInit, guarded_halted hs]
  | encData => rw [exec, execEncData, guarded_halted hs]
  | encFinish => rw [exec, execEncFinish, guarded_halted hs]
  | encReset => rw [exec, execEncReset, guarded_halted hs]
  | _ => cases hi

theorem fetch_halted_cons {s : State} {m : HostMove} {rest : List HostMove} (hs : s.g.halted = true)
    (hinput : s.input = m :: rest) (hm : m ≠ .reset) : fetch s = .settled { s with input := rest } := by
  cases m with
  | item w => simp [fetch, hinput, hs]
  | code c => simp [fetch, hinput, hs]
  | reset => exact absurd rfl hm

theorem fetch_halted_nil {s : State} (hs : s.g.halted = true) (hinput : s.input = []) :
    fetch s = .stopped .halted := by
  simp [fetch, hinput, hs]

theorem fetch_idle {s : State} (hs : s.g.halted = false) (hinput : s.input = []) : fetch s = .settled s := by
  simp [fetch, hinput, hs]

/-! ## What a fault writes -/

/-- A command that answers a halted core took a fault under its own word, and has written the command port and `G` alone: it
did not start halted, and its completion leaves `G` alone (R262, R263). -/
theorem exec_command_faulted {i : Instr} {s t : State} (hi : isCommand i = true) (h : exec i s = .next t)
    (ht : t.g.halted = true) : ∃ cause input, t = raiseFault cause (cmdWord i) { s with input := input } := by
  have hrunning : s.g.halted ≠ true := fun hs => by
    rw [exec_command_of_halted hi hs] at h
    cases h
  obtain hdec | henc := (Bool.or_eq_true _ _).mp hi
  · obtain ⟨cause, rfl⟩ | ⟨input, d, k, r, rfl⟩ := exec_decCommand_next hdec h
    · exact ⟨cause, s.input, rfl⟩
    · exact absurd ht hrunning
  · obtain hfault | ⟨input, e, k, r, rfl⟩ := exec_encCommand_next henc h
    · exact hfault
    · exact absurd ht hrunning

/-! ## The checks before a data command -/

theorem decoder_check_of_unconfigured {d : Decoder} (hcfg : d.cfg = false) : d.check = some .notConfigured := by
  simp [Decoder.check, hcfg]

theorem decoder_check_of_poisoned {d : Decoder} (hcfg : d.cfg = true) (hpoison : d.poison = true) :
    d.check = some .poisoned := by
  simp [Decoder.check, hcfg, hpoison]

theorem encoder_check_of_unconfigured {e : Encoder} (hcfg : e.cfg = false) : e.check = some .notConfigured := by
  simp [Encoder.check, hcfg]

theorem encoder_check_of_poisoned {e : Encoder} (hcfg : e.cfg = true) (hpoison : e.poison = true) :
    e.check = some .poisoned := by
  simp [Encoder.check, hcfg, hpoison]

theorem exec_decData_of_checkFails {s : State} {cause : Cause} (n : Nat) (hs : s.g.halted = false)
    (hcheck : s.d.check = some cause) :
    exec (.decData n) s = .next (raiseFault cause (cmdWord (.decData n)) s) := by
  rw [exec, execDecData, hcheck, guarded_fault hs]

/-- The encoder commands that work on a session take the fault of the encoder's check (R264). -/
theorem exec_encoder_of_checkFails {i : Instr} {s : State} {cause : Cause}
    (hi : i = .encFinish ∨ i = .encReset ∨ ∃ n, i = .encData n) (hs : s.g.halted = false)
    (hcheck : s.e.check = some cause) : exec i s = .next (raiseFault cause (cmdWord i) s) := by
  obtain rfl | rfl | ⟨n, rfl⟩ := hi
  · rw [exec, execEncFinish, hcheck, guarded_fault hs]
  · rw [exec, execEncReset, hcheck, guarded_fault hs]
  · rw [exec, execEncData, hcheck, guarded_fault hs]

/-! ## The obligations -/

/-- Settles O51: a command that halts the core is a fault entry on the state in which its items have been taken. -/
theorem faultsArePrecise : Obligations.FaultsArePrecise := by
  unfold Obligations.FaultsArePrecise
  intro i s t h ht hi
  obtain ⟨cause, input, rfl⟩ := exec_command_faulted hi h ht
  exact ⟨⟨cause, rfl⟩, rfl, rfl, rfl, rfl, rfl, rfl⟩

/-- Settles O53: of all a step can do, a halted core sees the host's reset, or the withdrawal of a move, which keeps `G`. -/
theorem onlyResetLeavesTheHaltedState : Obligations.OnlyResetLeavesTheHaltedState := by
  unfold Obligations.OnlyResetLeavesTheHaltedState
  intro s t h hs ht
  have hrunning : s.g.halted ≠ false := by rw [hs]; decide
  obtain ⟨rest, hinput, -⟩ | ⟨m, rest, -, -, -, rfl⟩ | ⟨-, hs', -⟩ | ⟨w, rest, err, -, hs', -⟩ |
    ⟨w, rest, i, -, hs', -⟩ | ⟨c, rest, -, hs', -⟩ := step_next h
  · exact ⟨rest, hinput⟩
  · exact absurd ht hrunning
  · exact absurd hs' hrunning
  · exact absurd hs' hrunning
  · exact absurd hs' hrunning
  · exact absurd hs' hrunning

/-- Settles O6: a halted core refuses a command, and its fetch withdraws a move or stops. -/
theorem haltedCoreTakesNothing : Obligations.HaltedCoreTakesNothing := by
  unfold Obligations.HaltedCoreTakesNothing
  intro s hs
  refine ⟨fun i hi => exec_command_of_halted hi hs, fun m rest hinput hm => ?_, fun hinput => ?_⟩
  · rw [step, fetch_halted_cons hs hinput hm]
  · rw [step, fetch_halted_nil hs hinput]

/-- Settles O7: with no move to come the fetch settles on the state itself. -/
theorem idleCoreHoldsItsState : Obligations.IdleCoreHoldsItsState := by
  unfold Obligations.IdleCoreHoldsItsState
  intro s hs hinput
  rw [step, fetch_idle hs hinput]

/-- Settles O20: an unconfigured engine fails its check with cause 4, whether poisoned or not, and a poisoned one with
cause 5; the fault comes before the command's body. -/
theorem dataCommandsCheckTheirEngine : Obligations.DataCommandsCheckTheirEngine := by
  unfold Obligations.DataCommandsCheckTheirEngine
  intro s hs
  refine ⟨fun n => ⟨fun hcfg => ?_, fun hcfg hpoison => ?_⟩, fun i hi => ⟨fun hcfg => ?_, fun hcfg hpoison => ?_⟩⟩
  · exact exec_decData_of_checkFails n hs (decoder_check_of_unconfigured hcfg)
  · exact exec_decData_of_checkFails n hs (decoder_check_of_poisoned hcfg hpoison)
  · exact exec_encoder_of_checkFails hi hs (encoder_check_of_unconfigured hcfg)
  · exact exec_encoder_of_checkFails hi hs (encoder_check_of_poisoned hcfg hpoison)

end Sys2Proof.Machine
end

section
/-! PROOFS. Hardware reset as a step: whatever state the core is in, the host's reset gives R43's values and leaves the rest
alone (O8). -/

namespace Sys2Proof.Machine
open Sys2Proof.Claims

/-- The host's reset is taken halted or not (R290). -/
theorem step_reset {s : State} {rest : List HostMove} (hinput : s.input = .reset :: rest) :
    step s = .next (hardwareReset { s with input := rest }) := by
  simp [step, fetch, hinput]

/-- Settles O8: the step is the hardware reset, whose `G`, `D` and `E` are those of the reset state, so its values are the
ones found there (`resetStateValues`). -/
theorem hardwareResetSetsEveryField : Obligations.HardwareResetSetsEveryField := by
  unfold Obligations.HardwareResetSetsEveryField
  intro s rest hinput
  obtain ⟨hg, hdcfg, hdC, hdlen, hdpoison, hecfg, heC, heL, hefill, hepinit, hepoison, hpairs, hstatus, hcmd⟩ :=
    resetStateValues
  exact ⟨_, step_reset hinput, hg, hdcfg, hdC, hdlen, hdpoison, hecfg, heC, heL, hefill, hepinit, hepoison, hpairs,
    hstatus, hcmd, rfl, rfl, rfl, rfl⟩

end Sys2Proof.Machine
end
